-- ==== Sys2Proof/Word.lean ====
section
/-! DEFINITION. The data the block handles: bit vectors (00_scope.md R2) and bit matrices (R7).
There is no byte and no machine word: every datum is held by value (20_memory.md R45, R46). -/

namespace Sys2Proof

/-- A bit vector, index 0 first (R2). Its length is part of its value. -/
abbrev BitVector := List Bool

/-- A matrix over GF(2) with its shape (R7): `bits` is the list of its rows, from row 0 down, each
from column 0 on. The shape is kept beside the rows, so that a matrix with no row or no column still
has both numbers. -/
structure BitMatrix where
  /-- The number of rows. -/
  rows : Nat
  /-- The number of columns. -/
  cols : Nat
  /-- The rows. -/
  bits : List BitVector
  deriving DecidableEq, Repr

end Sys2Proof
end

