-- ==== Sys2Proof/Machine/Gf2.lean ====
section
/-! DEFINITION. The notation of 00_scope.md as functions: integers and vectors (R3, R4), GF(2)
arithmetic (R6), matrices and their products (R7, R8), popcount, pow2 and the unit vectors (R9).
An entry outside a matrix or vector reads as 0; every rule's index is range-checked, so only states
no run reaches read one (log entry 11). -/

namespace Sys2Proof

/-- `uint(v)`, most significant bit first (R3); `uint([]) = 0`. -/
def uint : BitVector → Nat
  | [] => 0
  | b :: v => b.toNat * 2 ^ v.length + uint v

/-- `vec_w(x)`: bit i is `floor(x / 2^(w-1-i)) mod 2` (R4). -/
def vec (w x : Nat) : BitVector :=
  (List.range w).map fun i => x / 2 ^ (w - 1 - i) % 2 == 1

/-- `fix(x) = x mod 2` (R6). -/
def fix (x : Nat) : Bool := x % 2 == 1

/-- `u ⊕ v`: addition index by index, followed by fix (R6, R82). -/
def gfAdd (u v : BitVector) : BitVector :=
  List.zipWith (fun a b => fix (a.toNat + b.toNat)) u v

/-- `popcount(v)`, the number of ones (R9). -/
def popcount (v : BitVector) : Nat := v.countP id

/-- `0^L` (R9). -/
def zeroVec (len : Nat) : BitVector := List.replicate len false

/-- `e_p^L`: a single 1, at index p (R9). -/
def unitVec (len p : Nat) : BitVector := (List.range len).map fun i => i == p

/-- The number of set bits of a natural: `x < 2^x`, so its bits lie below index x. -/
def bitCount (x : Nat) : Nat := (List.range x).countP fun i => x / 2 ^ i % 2 == 1

/-- `pow2(x)`: `x > 0` and x has exactly one bit set (R9). -/
def pow2 (x : Nat) : Bool := decide (0 < x) && bitCount x == 1

/-- The entry `A[i][j]` (R7). -/
def BitMatrix.entry (a : BitMatrix) (i j : Nat) : Bool := (a.bits.getD i []).getD j false

/-- The r×c matrix with the entries `f i j`. -/
def BitMatrix.ofFn (r c : Nat) (f : Nat → Nat → Bool) : BitMatrix :=
  ⟨r, c, (List.range r).map fun i => (List.range c).map fun j => f i j⟩

/-- `A[i][:]`, row i read as a vector (R7). -/
def BitMatrix.row (a : BitMatrix) (i : Nat) : BitVector := a.bits.getD i []

/-- `A[:,j]`, column j read as a vector, row 0 first (R7). -/
def BitMatrix.col (a : BitMatrix) (j : Nat) : BitVector := a.bits.map fun r => r.getD j false

/-- `colval(A, j) = uint(A[:,j])` (R7). -/
def BitMatrix.colval (a : BitMatrix) (j : Nat) : Nat := uint (a.col j)

/-- `I_r` (R7). -/
def BitMatrix.identity (r : Nat) : BitMatrix := .ofFn r r fun i j => i == j

/-- `A^T` (R7). -/
def BitMatrix.transpose (a : BitMatrix) : BitMatrix := .ofFn a.cols a.rows fun j i => a.entry i j

/-- `[A | B]`, the horizontal concatenation (R7). -/
def BitMatrix.hcat (a b : BitMatrix) : BitMatrix :=
  ⟨a.rows, a.cols + b.cols, List.zipWith (· ++ ·) a.bits b.bits⟩

/-- The r-row matrix whose columns are the listed vectors, in order. -/
def BitMatrix.ofCols (r : Nat) (cs : List BitVector) : BitMatrix :=
  ⟨r, cs.length, (List.range r).map fun i => cs.map fun v => v.getD i false⟩

/-- The matrix with column j replaced: `A[:,j] <- v`. -/
def BitMatrix.setCol (a : BitMatrix) (j : Nat) (v : BitVector) : BitMatrix :=
  { a with bits := List.zipWith (fun row b => row.set j b) a.bits v }

/-- The integer sum `sum over l of v[l] * B[l][j]` of R8. -/
def dotCol (v : BitVector) (b : BitMatrix) (j : Nat) : Nat :=
  ((List.range v.length).map fun l => (v.getD l false).toNat * (b.entry l j).toNat).sum

/-- `v ×2 B`, a row vector times a matrix, reduced modulo 2 entrywise (R8). -/
def vecMul (v : BitVector) (b : BitMatrix) : BitVector :=
  (List.range b.cols).map fun j => fix (dotCol v b j)

/-- `A ×2 B` (R8): row i of the product is row i of A times B. -/
def matMul (a b : BitMatrix) : BitMatrix := ⟨a.rows, b.cols, a.bits.map fun v => vecMul v b⟩

end Sys2Proof
end

