-- ==== Sys2Proof/Config.lean ====
section
/-! DEFINITION. The implementation parameters of 00_scope.md R1, which the spec leaves OPEN. They are
data of the machine (a field of State no step changes), so that a statement about every state holds
for every choice of them. -/

namespace Sys2Proof

/-- A largest admitted value, or none (R1: "or unbounded"). -/
inductive Bound where
  /-- Every natural is admitted. -/
  | unbounded
  /-- The naturals up to and including `n` are admitted. -/
  | atMost (n : Nat)
  deriving DecidableEq, Repr

/-- The width of a scalar operand port, or none (R1: "or unbounded"). -/
inductive PortWidth where
  /-- Every natural can be presented. -/
  | unbounded
  /-- The naturals below `2^w` can be presented. -/
  | bits (w : Nat)
  deriving DecidableEq, Repr

/-- The parameters of R1. -/
structure Config where
  /-- KMAX: the largest information length CONSTRUCT accepts. -/
  kmax : Bound
  /-- LMAX: the largest length of a vector on DA, DB or DOUT. -/
  lmax : Bound
  /-- AW: the width of the scalar ports ARG and ARGB. -/
  aw : PortWidth
  /-- LATENCY: cycles per command. No rule depends on it (70_reset_and_hazards.md R177). -/
  latency : Nat
  deriving DecidableEq, Repr

/-- The parameters State.reset has: nothing bounded, as 95_test_vectors.md takes them where a vector
does not say otherwise. DESIGN CHOICE (log entry 5, unsafe for a statement about State.reset's own
parameters): the spec leaves all four open. -/
def Config.unbounded : Config := ⟨.unbounded, .unbounded, .unbounded, 1⟩

end Sys2Proof
end

