-- ==== Sys2Proof/Syntax.lean ====
section
/-! DEFINITION. The instructions: one constructor per row of spec/opcode_table.json (30_encoding.md
R62), each with exactly the operands R66 says it reads, in the order of the assembler syntax R68. -/

namespace Sys2Proof

/-- What the host presents beside the command word: the operand ports of R61, and the draw of
INJRAND, which the host supplies with the command (10_state.md R22, 60_exceptions.md R161). -/
structure Ports where
  /-- ARG, the first scalar operand. -/
  arg : Nat
  /-- ARGB, the second scalar operand. -/
  argb : Nat
  /-- DA, the first vector operand. -/
  da : BitVector
  /-- DB, the second vector operand. -/
  db : BitVector
  /-- The draw e of INJRAND (40_bitvector.md R84); every other command ignores it. -/
  draw : BitVector
  deriving DecidableEq, Repr

/-- The operands of `.cmd W` (R68): `ARG = ARGB = 0` and `DA = DB = []`; and an empty draw, the only
member of `E(0, 0)`. -/
def Ports.zero : Ports := ⟨0, 0, [], [], []⟩

/-- The 18 instructions of R62 with their operands. -/
inductive Instr where
  /-- CONSTRUCT k (R90). -/
  | construct (k : Nat)
  /-- ENCODE DA (R110). -/
  | encode (da : BitVector)
  /-- DECODE DA (R111). -/
  | decode (da : BitVector)
  /-- SYNDROME DA (R112). -/
  | syndrome (da : BitVector)
  /-- LOCATE DA (R113). -/
  | locate (da : BitVector)
  /-- GF2MUL.G DA (R114). -/
  | gf2mulG (da : BitVector)
  /-- GF2MUL.HT DA (R115). -/
  | gf2mulHT (da : BitVector)
  /-- GF2MUL.GHT (R116). -/
  | gf2mulGHT
  /-- VADD DA, DB (R82). -/
  | vadd (da db : BitVector)
  /-- FLIP DA, p (R83). -/
  | flip (da : BitVector) (p : Nat)
  /-- INJRAND DA, t with the draw e (R84). -/
  | injrand (da : BitVector) (t : Nat) (e : BitVector)
  /-- I2V x, w (R80). -/
  | i2v (x w : Nat)
  /-- V2I DA (R81). -/
  | v2i (da : BitVector)
  /-- INSPECT.HCOL j (R130). -/
  | inspectHcol (j : Nat)
  /-- INSPECT.GCOL j (R131). -/
  | inspectGcol (j : Nat)
  /-- INSPECT.GROW r (R132). -/
  | inspectGrow (r : Nat)
  /-- INSPECT.HROW i (R133). -/
  | inspectHrow (i : Nat)
  /-- INSPECT.MASK (R134). -/
  | inspectMask
  deriving DecidableEq, Repr

end Sys2Proof
end

