-- ==== Sys2Proof/Machine/Operands.lean ====
section
/-! DEFINITION. What the parameters admit (00_scope.md R1), what the host can present
(30_encoding.md R67), and the draw set of INJRAND (40_bitvector.md R84). Every operand is used as
presented: none is extended, scaled or shifted (R66). -/

namespace Sys2Proof

/-- `x` is not above the bound. -/
def Bound.admits (b : Bound) (x : Nat) : Bool :=
  match b with
  | .unbounded => true
  | .atMost n => decide (x ≤ n)

/-- `x` fits a scalar port: it is below `2^AW` (R67). -/
def PortWidth.fits (a : PortWidth) (x : Nat) : Bool :=
  match a with
  | .unbounded => true
  | .bits w => decide (x < 2 ^ w)

/-- The host can present these operands: scalars below `2^AW`, vectors no longer than LMAX (R67). -/
def Ports.presentable (c : Config) (p : Ports) : Bool :=
  c.aw.fits p.arg && c.aw.fits p.argb && c.lmax.admits p.da.length && c.lmax.admits p.db.length

/-- `e ∈ E(t, len)`, the draw set of INJRAND (R84). -/
def inDrawSet (t len : Nat) (e : BitVector) : Bool :=
  match t with
  | 0 => e == zeroVec len
  | 1 => (List.range len).any fun p => e == unitVec len p
  | t => e.length == len && decide (popcount e ≤ t)

end Sys2Proof
end

