-- ==== Sys2Proof/WellFormed.lean ====
section
/-! DEFINITION. A well-formed instruction is one the host can present (30_encoding.md R67,
60_exceptions.md R161): its scalars fit the ports, its vectors are no longer than LMAX, and the draw
of an INJRAND that draws lies in its set (40_bitvector.md R84). -/

namespace Sys2Proof

/-- The host can present this instruction on a block with these parameters. -/
def Instr.wellFormed (c : Config) (i : Instr) : Bool :=
  match i with
  | .construct k => c.aw.fits k
  | .encode da => c.lmax.admits da.length
  | .decode da => c.lmax.admits da.length
  | .syndrome da => c.lmax.admits da.length
  | .locate da => c.lmax.admits da.length
  | .gf2mulG da => c.lmax.admits da.length
  | .gf2mulHT da => c.lmax.admits da.length
  | .gf2mulGHT => true
  | .vadd da db => c.lmax.admits da.length && c.lmax.admits db.length
  | .flip da p => c.lmax.admits da.length && c.aw.fits p
  | .injrand da t e =>
      c.lmax.admits da.length && c.aw.fits t && (decide (da.length < t) || inDrawSet t da.length e)
  | .i2v x w => c.aw.fits x && c.aw.fits w
  | .v2i da => c.lmax.admits da.length
  | .inspectHcol j => c.aw.fits j
  | .inspectGcol j => c.aw.fits j
  | .inspectGrow r => c.aw.fits r
  | .inspectHrow i => c.aw.fits i
  | .inspectMask => true

end Sys2Proof
end

