-- ==== Sys2Proof/Decode.lean ====
section
/-! DEFINITION. The command word (30_encoding.md R60): `CMD[3:0]` is OPC, `CMD[7:4]` is SEL,
`CMD[15:8]` is RSV. The decoder reads the fields and the (OPC, SEL) table of R62, and takes from the
ports the operands R66 names; the encoder is written from R62's CMD value column. -/

namespace Sys2Proof

/-- Why a word is illegal (R65). -/
inductive IllegalWord where
  /-- A bit of RSV is set (R64). -/
  | rsvNonzero
  /-- OPC is 0x0 or 0xD to 0xF. -/
  | opcReserved
  /-- SEL is not listed for this OPC in R62. -/
  | selUnlisted
  deriving DecidableEq, Repr

/-- The answer of the decoder: an instruction, or a rejection by name. -/
inductive Decoded where
  /-- The word is a row of R62. -/
  | ok (i : Instr)
  /-- The word is illegal (R65). -/
  | illegal (why : IllegalWord)
  deriving DecidableEq, Repr

/-- OPC, `CMD[3:0]` (R60, numbered as R5 says). -/
def opcOf (w : BitVec 16) : Nat := w.toNat % 16

/-- SEL, `CMD[7:4]`. -/
def selOf (w : BitVec 16) : Nat := w.toNat / 16 % 16

/-- RSV, `CMD[15:8]`. -/
def rsvOf (w : BitVec 16) : Nat := w.toNat / 256 % 256

/-- The (OPC, SEL) table of R62, with the operands of R66 taken from the ports. -/
def instrAt (p : Ports) (opc sel : Nat) : Decoded :=
  match opc, sel with
  | 0x1, 0 => .ok (.construct p.arg)
  | 0x2, 0 => .ok (.encode p.da)
  | 0x3, 0 => .ok (.decode p.da)
  | 0x4, 0 => .ok (.syndrome p.da)
  | 0x5, 0 => .ok (.locate p.da)
  | 0x6, 0 => .ok (.gf2mulG p.da)
  | 0x6, 1 => .ok (.gf2mulHT p.da)
  | 0x6, 2 => .ok .gf2mulGHT
  | 0x7, 0 => .ok (.vadd p.da p.db)
  | 0x8, 0 => .ok (.flip p.da p.arg)
  | 0x9, 0 => .ok (.injrand p.da p.arg p.draw)
  | 0xA, 0 => .ok (.i2v p.arg p.argb)
  | 0xB, 0 => .ok (.v2i p.da)
  | 0xC, 0 => .ok (.inspectHcol p.arg)
  | 0xC, 1 => .ok (.inspectGcol p.arg)
  | 0xC, 2 => .ok (.inspectGrow p.arg)
  | 0xC, 3 => .ok (.inspectHrow p.arg)
  | 0xC, 4 => .ok .inspectMask
  | opc, _ =>
      if opc == 0 || decide (0xD ≤ opc) then .illegal .opcReserved else .illegal .selUnlisted

/-- The decoder: total, rejecting by name (R63 to R65). -/
def decode (w : BitVec 16) (p : Ports) : Decoded :=
  if rsvOf w ≠ 0 then .illegal .rsvNonzero else instrAt p (opcOf w) (selOf w)

/-- The command word of an instruction: R62's CMD value column. -/
def encodeWord (i : Instr) : BitVec 16 :=
  match i with
  | .construct _ => 0x0001
  | .encode _ => 0x0002
  | .decode _ => 0x0003
  | .syndrome _ => 0x0004
  | .locate _ => 0x0005
  | .gf2mulG _ => 0x0006
  | .gf2mulHT _ => 0x0016
  | .gf2mulGHT => 0x0026
  | .vadd _ _ => 0x0007
  | .flip _ _ => 0x0008
  | .injrand _ _ _ => 0x0009
  | .i2v _ _ => 0x000A
  | .v2i _ => 0x000B
  | .inspectHcol _ => 0x000C
  | .inspectGcol _ => 0x001C
  | .inspectGrow _ => 0x002C
  | .inspectHrow _ => 0x003C
  | .inspectMask => 0x004C

/-- Ports that present an instruction's operands (R66), every other port at zero. -/
def encodePorts (i : Instr) : Ports :=
  match i with
  | .construct k => { Ports.zero with arg := k }
  | .encode da => { Ports.zero with da := da }
  | .decode da => { Ports.zero with da := da }
  | .syndrome da => { Ports.zero with da := da }
  | .locate da => { Ports.zero with da := da }
  | .gf2mulG da => { Ports.zero with da := da }
  | .gf2mulHT da => { Ports.zero with da := da }
  | .gf2mulGHT => Ports.zero
  | .vadd da db => { Ports.zero with da := da, db := db }
  | .flip da p => { Ports.zero with da := da, arg := p }
  | .injrand da t e => { Ports.zero with da := da, arg := t, draw := e }
  | .i2v x w => { Ports.zero with arg := x, argb := w }
  | .v2i da => { Ports.zero with da := da }
  | .inspectHcol j => { Ports.zero with arg := j }
  | .inspectGcol j => { Ports.zero with arg := j }
  | .inspectGrow r => { Ports.zero with arg := r }
  | .inspectHrow i => { Ports.zero with arg := i }
  | .inspectMask => Ports.zero

/-- The command the host presents for an instruction: its word and its ports. -/
def encode (i : Instr) : BitVec 16 × Ports := (encodeWord i, encodePorts i)

/-- The instruction the decoder reads from a table row's word, the operand ports at zero. A command
is one 16-bit word (R60); the host's bits at or above `nbits` are 0. -/
def decodeTableWord (nbits w : Nat) : Option Instr :=
  match decode (BitVec.ofNat 16 (w % 2 ^ nbits)) Ports.zero with
  | .ok i => some i
  | .illegal _ => none

end Sys2Proof
end

