-- ==== Sys2Proof/Machine/State.lean ====
section
/-! DEFINITION. The state of the machine: every register of 10_state.md, the parameters, and the
host's script with what it has observed (70_reset_and_hazards.md R178) and the model faults recorded
(60_exceptions.md R150). -/

namespace Sys2Proof.Machine

/-- The content of a register that reset leaves UNDEF (10_state.md R37). UNDEF is the spec's own
content, the reset value R170 states: it marks a register nothing has written since reset, or an
instance register a ConstructionError cleared (log entry 1). -/
inductive Reg (α : Type) where
  /-- UNDEF: no value; a host read records the model fault ReadUndef (R150). -/
  | undef
  /-- The value last written. -/
  | val (v : α)
  deriving DecidableEq, Repr

/-- The registers the host reads directly (R38); H, G and MASK are host-readable only through INSPECT
(R28 to R30). -/
inductive HostReg where
  | valid | fault | k | m | n | status | dout | syn | synval | errdet | outcome | dvalid | rval
  deriving DecidableEq, Repr

/-- A value the host read. -/
inductive Value where
  /-- VALID, FAULT, ERRDET, DVALID. -/
  | bit (b : Bool)
  /-- K, M, N, SYNVAL, RVAL. -/
  | scalar (x : Nat)
  /-- DOUT, SYN. -/
  | vector (v : BitVector)
  /-- STATUS, 3 bits. -/
  | statusCode (c : BitVec 3)
  /-- OUTCOME, 2 bits. -/
  | outcomeCode (c : BitVec 2)
  deriving DecidableEq, Repr

/-- One value the host read, with the register it read it from (R178). -/
structure Observation where
  reg : HostReg
  value : Value
  deriving DecidableEq, Repr

/-- A model fault of 60_exceptions.md R150: recorded in `State.modelFaults` and never cleared; the
machine goes on, and the run is not a successful end (log entry 15). It is no stop of the machine. -/
inductive ModelFault where
  /-- ReadUndef: the host read the register r while it held UNDEF (10_state.md R37,
  92_eei_decisions.md D11, 93_implementation_defined.md V1). -/
  | readUndef (r : HostReg)
  deriving DecidableEq, Repr

/-- One action of the host between commands (R161, R178). -/
inductive HostAction where
  /-- Present the command word `w` with the operands on the ports. -/
  | command (w : BitVec 16) (p : Ports)
  /-- Read a register (`read NAME` of R68). -/
  | read (r : HostReg)
  /-- Assert reset (`reset` of R68). -/
  | reset
  deriving DecidableEq, Repr

/-- The kinds of error a command raises (60_exceptions.md R140). -/
inductive Kind where
  | constructionError | lengthMismatch | noInstance | illegalCommand | range
  deriving DecidableEq, Repr

/-- The code instance: the tuple (k, m, n, H, G, mask) (00_scope.md section 7). -/
structure CodeInstance where
  k : Nat
  m : Nat
  n : Nat
  h : BitMatrix
  g : BitMatrix
  mask : BitVector
  deriving DecidableEq, Repr

/-- The state. The first sixteen fields are the registers of 10_state.md; `config`, `pending`,
`observed` and `modelFaults` are the model's own (log entries 5, 2, 3 and 15). -/
@[ext]
structure State where
  /-- VALID (R23). -/
  valid : Bool
  /-- FAULT, sticky (R24). -/
  fault : Bool
  /-- K (R25). -/
  k : Reg Nat
  /-- M (R26). -/
  m : Reg Nat
  /-- N (R27). -/
  n : Reg Nat
  /-- H (R28). -/
  h : Reg BitMatrix
  /-- G (R29). -/
  g : Reg BitMatrix
  /-- MASK (R30). -/
  mask : Reg BitVector
  /-- STATUS (R31, R140). -/
  status : BitVec 3
  /-- DOUT (R32). -/
  dout : Reg BitVector
  /-- SYN (R33). -/
  syn : Reg BitVector
  /-- SYNVAL (R33). -/
  synval : Reg Nat
  /-- ERRDET (R34). -/
  errdet : Reg Bool
  /-- OUTCOME (R34). -/
  outcome : Reg (BitVec 2)
  /-- DVALID (R34). -/
  dvalid : Reg Bool
  /-- RVAL (R35). -/
  rval : Reg Nat
  /-- The parameters of 00_scope.md R1; no step changes them. -/
  config : Config
  /-- The host's remaining actions, the next one first (R178). -/
  pending : List HostAction
  /-- The values the host has read, the oldest first (R178). -/
  observed : List Observation
  /-- The model faults recorded, the oldest first (60_exceptions.md R150). -/
  modelFaults : List ModelFault
  deriving DecidableEq, Repr

/-- Why the machine stops. -/
inductive Fault where
  /-- Raised by a command that needs the code instance in a state with VALID = 1 and an UNDEF instance
  register. No run reaches such a state (R37), and the spec gives no effect there. Safe (log entry 8). -/
  | codeUndef
  deriving DecidableEq, Repr

/-- Why a step has no meaning. -/
inductive Refusal where
  /-- Raised by exec for an instruction that has no meaning yet. Safe. -/
  | notModelled (mnemonic : String)
  /-- Raised by a step whose command has an operand beyond the ports: the spec gives the host no such
  move (30_encoding.md R67, R161). Safe (log entry 6). -/
  | operandBeyondPorts
  /-- Raised by INJRAND with a draw outside its set: the spec gives the host no such move (R161).
  Safe (log entry 7). -/
  | drawOutsideSet
  deriving DecidableEq, Repr

/-- The answer of a meaning. -/
abbrev Result := Host.Outcome State Fault Refusal

/-- The state R170 gives after reset, on a block with the parameters `c` and an idle host. -/
def State.resetWith (c : Config) : State where
  valid := false
  fault := false
  k := .undef
  m := .undef
  n := .undef
  h := .undef
  g := .undef
  mask := .undef
  status := 0
  dout := .undef
  syn := .undef
  synval := .undef
  errdet := .undef
  outcome := .undef
  dvalid := .undef
  rval := .undef
  config := c
  pending := []
  observed := []
  modelFaults := []

/-- The machine right after reset (R170). -/
def State.reset : State := State.resetWith Config.unbounded

end Sys2Proof.Machine
end

