-- ==== Sys2Proof/Machine/Flags.lean ====
section
/-! DEFINITION. The decode flags of 10_state.md R34, computed from the syndrome value v and the
codeword length N as DECODE (42_codec.md R111) and LOCATE (R113) do. There are no other flags (R43). -/

namespace Sys2Proof.Machine

/-- ERRDET: 1 iff the syndrome value is nonzero. -/
def errdetOf (v : Nat) : Bool := v != 0

/-- OUTCOME: 0 CLEAN (v = 0), 1 CORRECTED (1 to N), 2 UNCORRECTABLE (above N). -/
def outcomeOf (v n : Nat) : BitVec 2 := if v = 0 then 0 else if v ≤ n then 1 else 2

end Sys2Proof.Machine
end

