-- ==== Sys2Proof/Machine/Ops.lean ====
section
/-! DEFINITION. The shared operations: reading the code instance, writing the result registers,
ending a command, raising an error (60_exceptions.md R142, R143), what the host observes (R178),
recording a model fault (R150), and the common checks (R141).
There is no trap and no return from one (R151, R152): a raise is a next state. -/

namespace Sys2Proof.Machine

/-- The status code of a kind (R140). -/
def kindCode (e : Kind) : BitVec 3 :=
  match e with
  | .constructionError => 1
  | .lengthMismatch => 2
  | .noInstance => 3
  | .illegalCommand => 4
  | .range => 5

/-- `STATUS <- code`. -/
def writeStatus (c : BitVec 3) (s : State) : State := { s with status := c }

/-- `end`: the command completes with STATUS OK (R11, R140). -/
def complete (s : State) : State := writeStatus 0 s

/-- `DOUT <- v` (R32). -/
def writeDout (v : BitVector) (s : State) : State := { s with dout := .val v }

/-- `SYN <- v` (R33). -/
def writeSyn (v : BitVector) (s : State) : State := { s with syn := .val v }

/-- `SYNVAL <- x` (R33). -/
def writeSynval (x : Nat) (s : State) : State := { s with synval := .val x }

/-- `ERRDET` and `OUTCOME` for the syndrome value v on a codeword of n bits (R34). -/
def writeFlags (v n : Nat) (s : State) : State :=
  { s with errdet := .val (errdetOf v), outcome := .val (outcomeOf v n) }

/-- `DVALID <- b` (R34). -/
def writeDvalid (b : Bool) (s : State) : State := { s with dvalid := .val b }

/-- `RVAL <- x` (R35). -/
def writeRval (x : Nat) (s : State) : State := { s with rval := .val x }

/-- The commit of CONSTRUCT: the instance registers replaced whole, VALID set (41_construct.md R100). -/
def commitCode (c : CodeInstance) (s : State) : State :=
  { s with
    valid := true, k := .val c.k, m := .val c.m, n := .val c.n,
    h := .val c.h, g := .val c.g, mask := .val c.mask }

/-- What a ConstructionError does beside STATUS (R143): FAULT set, VALID cleared, the instance
registers UNDEF; the result registers keep their values. -/
def destroyCode (s : State) : State :=
  { s with
    fault := true, valid := false, k := .undef, m := .undef, n := .undef,
    h := .undef, g := .undef, mask := .undef }

/-- `raise Kind()` (R142): STATUS takes the kind's code, nothing else changes, but for a
ConstructionError the effects of R143. -/
def raise (e : Kind) (s : State) : State :=
  match e with
  | .constructionError => writeStatus (kindCode .constructionError) (destroyCode s)
  | e => writeStatus (kindCode e) s

/-- The host gets a value (70_reset_and_hazards.md R178): it joins the run's observation. -/
def observe (o : Observation) (s : State) : State := { s with observed := s.observed ++ [o] }

/-- A model fault occurs (60_exceptions.md R150): it is recorded and never cleared. -/
def recordFault (f : ModelFault) (s : State) : State := { s with modelFaults := s.modelFaults ++ [f] }

/-- The code instance in the registers, or none while one of them is UNDEF. -/
def State.code (s : State) : Option CodeInstance :=
  match s.k, s.m, s.n, s.h, s.g, s.mask with
  | .val k, .val m, .val n, .val h, .val g, .val mask => some ⟨k, m, n, h, g, mask⟩
  | _, _, _, _, _, _ => none

/-- The first check of R141: while FAULT = 1 every command raises ConstructionError. -/
def checked (s : State) (body : Result) : Result :=
  if s.fault then .next (raise .constructionError s) else body

/-- The checks of a command that needs the code instance (R141): FAULT, then VALID; the body gets the
instance. VALID = 1 with an UNDEF instance register is reached by no run (log entry 8). -/
def withCode (s : State) (body : CodeInstance → Result) : Result :=
  checked s <|
    if s.valid then
      match s.code with
      | some c => body c
      | none => .fault .codeUndef
    else .next (raise .noInstance s)

/-- An illegal command word (R147): FAULT first, then IllegalCommand (R141). -/
def illegalCommand (s : State) : Result := checked s (.next (raise .illegalCommand s))

end Sys2Proof.Machine
end

