-- ==== Sys2Proof/Machine/Codec.lean ====
section
/-! DEFINITION. The codec and the GF(2) multiplier: ENCODE, DECODE, SYNDROME, LOCATE, GF2MUL.G,
GF2MUL.HT, GF2MUL.GHT (42_codec.md R110 to R116). Each needs the code instance. -/

namespace Sys2Proof.Machine

/-- The syndrome `word ×2 H^T` (R111 step 1). -/
def syndromeOf (c : CodeInstance) (word : BitVector) : BitVector := vecMul word c.h.transpose

/-- The word with the bit the syndrome value names flipped, 1-indexed; unchanged when it is 0 (R111
steps 3 and 4). -/
def correctedWord (c : CodeInstance) (word : BitVector) (v : Nat) : BitVector :=
  if v = 0 then word else gfAdd word (unitVec c.n (v - 1))

/-- The information digits: the positions where the mask is 1, ascending (R111 step 5). -/
def extractInfo (c : CodeInstance) (word : BitVector) : BitVector :=
  ((List.range c.n).filter fun i => c.mask.getD i false).map fun i => word.getD i false

/-- ENCODE (R110). -/
def execEncode (da : BitVector) (s : State) : Result :=
  withCode s fun c =>
    if da.length ≠ c.k then .next (raise .lengthMismatch s)
    else .next (complete (writeDout (vecMul da c.g) s))

/-- DECODE (R111); an uncorrectable word is an outcome with STATUS OK, not a raise (60_exceptions.md
R148). -/
def execDecode (da : BitVector) (s : State) : Result :=
  withCode s fun c =>
    if da.length ≠ c.n then .next (raise .lengthMismatch s)
    else
      let syn := syndromeOf c da
      let v := uint syn
      let t := writeFlags v c.n (writeSynval v (writeSyn syn s))
      if c.n < v then .next (complete (writeDout [] (writeDvalid false t)))
      else .next (complete (writeDout (extractInfo c (correctedWord c da v)) (writeDvalid true t)))

/-- SYNDROME (R112). -/
def execSyndrome (da : BitVector) (s : State) : Result :=
  withCode s fun c =>
    if da.length ≠ c.n then .next (raise .lengthMismatch s)
    else .next (complete (writeSynval (uint (syndromeOf c da)) (writeSyn (syndromeOf c da) s)))

/-- LOCATE (R113): RVAL is written only when the outcome is CORRECTED. -/
def execLocate (da : BitVector) (s : State) : Result :=
  withCode s fun c =>
    if da.length ≠ c.m then .next (raise .lengthMismatch s)
    else
      let v := uint da
      let t := writeFlags v c.n (writeSynval v s)
      if v ≠ 0 ∧ v ≤ c.n then .next (complete (writeRval (v - 1) t)) else .next (complete t)

/-- GF2MUL.G (R114). -/
def execGf2mulG (da : BitVector) (s : State) : Result :=
  withCode s fun c =>
    if da.length ≠ c.k then .next (raise .lengthMismatch s)
    else .next (complete (writeDout (vecMul da c.g) s))

/-- GF2MUL.HT (R115). -/
def execGf2mulHT (da : BitVector) (s : State) : Result :=
  withCode s fun c =>
    if da.length ≠ c.n then .next (raise .lengthMismatch s)
    else .next (complete (writeDout (vecMul da c.h.transpose) s))

/-- GF2MUL.GHT (R116): the rows of `G ×2 H^T` one after the other. -/
def execGf2mulGHT (s : State) : Result :=
  withCode s fun c =>
    if s.config.lmax.admits (c.k * c.m) = false then .next (raise .range s)
    else .next (complete (writeDout (matMul c.g c.h.transpose).bits.flatten s))

end Sys2Proof.Machine
end

