-- ==== Sys2Proof/Machine/Construct.lean ====
section
/-! DEFINITION. CONSTRUCT and its sub-steps (41_construct.md R90 to R100): the parameter deriver, the
parity matrix builder, the matrix systemizer with its permutation record, the generator matrix
builder with the information-position mask, the check and the commit. The values S, Q, G_std and the
record are local to the command (10_state.md R41). -/

namespace Sys2Proof.Machine

/-- The search of R91 from m on, at most `fuel` increments. -/
def deriveMFrom (k fuel m : Nat) : Nat :=
  match fuel with
  | 0 => m
  | fuel + 1 => if 2 ^ m - m - 1 < k then deriveMFrom k fuel (m + 1) else m

/-- `derive_m(k)` (R91). The search stops at some `m <= floor(log2 k) + 2` (R176), so `k + 1`
increments are more than it takes. -/
def deriveM (k : Nat) : Nat := deriveMFrom k (k + 1) 1

/-- `parity(m, n)`: column c is `vec_m(c + 1)` (R92). -/
def parity (m n : Nat) : BitMatrix := .ofFn m n fun i c => (vec m (c + 1)).getD i false

/-- Q of R93: the columns of H whose value is not a power of two, in order. -/
def nonPowerColumns (h : BitMatrix) : BitMatrix :=
  .ofCols h.rows (((List.range h.cols).filter fun c => !pow2 (h.colval c)).map h.col)

/-- `systemize(H)` (R93): `S = [I_m | Q]` and Q. -/
def systemize (h : BitMatrix) : BitMatrix × BitMatrix :=
  let q := nonPowerColumns h
  (.hcat (.identity h.rows) q, q)

/-- The least column index of S whose content is v (`min F` of R94). -/
def findCol (s : BitMatrix) (v : BitVector) : Option Nat :=
  (List.range s.cols).find? fun f => s.col f == v

/-- The record's loop over the listed original indexes (R94); none is the ConstructionError of a
lookup that fails. -/
def recordFrom (h s : BitMatrix) (cs : List Nat) : Option (List (Nat × Nat)) :=
  match cs with
  | [] => some []
  | c :: cs =>
      if s.col c = h.col c then recordFrom h s cs
      else
        match findCol s (h.col c) with
        | none => none
        | some f => (recordFrom h s cs).map fun p => (c, f) :: p

/-- `record(H, S)`, the permutation record P, by ascending original index (R94). -/
def record (h s : BitMatrix) : Option (List (Nat × Nat)) := recordFrom h s (List.range h.cols)

/-- `G_std = [Q^T | I_k]` (R96). -/
def standardGenerator (q : BitMatrix) (k : Nat) : BitMatrix := .hcat q.transpose (.identity k)

/-- `generator(G_std, P)` (R97): every copy reads the unmodified G_std. -/
def generator (gstd : BitMatrix) (p : List (Nat × Nat)) : BitMatrix :=
  p.foldl (fun g of => g.setCol of.1 (gstd.col of.2)) gstd

/-- `mask(P, m, k)` (R98): m zeros then k ones; for each pair with `f >= m`, in order, o becomes an
information position and f does not stay one (90_conflicts.md C1). -/
def infoMask (p : List (Nat × Nat)) (m k : Nat) : BitVector :=
  p.foldl (fun mk of => if m ≤ of.2 then (mk.set of.1 true).set of.2 false else mk)
    (zeroVec m ++ List.replicate k true)

/-- R91 to R99: the instance for information length k, or none where the rules raise
ConstructionError. -/
def buildCode (k : Nat) : Option CodeInstance :=
  let m := deriveM k
  let n := m + k
  let h := parity m n
  let sq := systemize h
  match record h sq.1 with
  | none => none
  | some p =>
      let mk := infoMask p m k
      if popcount mk = k then some ⟨k, m, n, h, generator (standardGenerator sq.2 k) p, mk⟩ else none

/-- CONSTRUCT (R90): Range above KMAX, ConstructionError for k = 0 or an internal violation, else the
commit (R100). -/
def execConstruct (k : Nat) (s : State) : Result :=
  checked s <|
    if s.config.kmax.admits k = false then .next (raise .range s)
    else if k < 1 then .next (raise .constructionError s)
    else
      match buildCode k with
      | none => .next (raise .constructionError s)
      | some c => .next (complete (commitCode c s))

end Sys2Proof.Machine
end

