-- ==== Sys2Proof/Machine/Inspect.lean ====
section
/-! DEFINITION. The inspect accessors: INSPECT.HCOL, GCOL, GROW, HROW, MASK (43_inspect.md R130 to
R134). Each needs the code instance and writes DOUT and STATUS only. -/

namespace Sys2Proof.Machine

/-- INSPECT.HCOL (R130). -/
def execInspectHcol (j : Nat) (s : State) : Result :=
  withCode s fun c =>
    if c.n ≤ j then .next (raise .range s) else .next (complete (writeDout (c.h.col j) s))

/-- INSPECT.GCOL (R131). -/
def execInspectGcol (j : Nat) (s : State) : Result :=
  withCode s fun c =>
    if c.n ≤ j then .next (raise .range s) else .next (complete (writeDout (c.g.col j) s))

/-- INSPECT.GROW (R132). -/
def execInspectGrow (r : Nat) (s : State) : Result :=
  withCode s fun c =>
    if c.k ≤ r then .next (raise .range s) else .next (complete (writeDout (c.g.row r) s))

/-- INSPECT.HROW (R133). -/
def execInspectHrow (i : Nat) (s : State) : Result :=
  withCode s fun c =>
    if c.m ≤ i then .next (raise .range s) else .next (complete (writeDout (c.h.row i) s))

/-- INSPECT.MASK (R134). -/
def execInspectMask (s : State) : Result :=
  withCode s fun c => .next (complete (writeDout c.mask s))

end Sys2Proof.Machine
end

