-- ==== Sys2Proof/Machine/Utilities.lean ====
section
/-! DEFINITION. The bit-vector utilities and error injection: I2V, V2I, VADD, FLIP, INJRAND
(40_bitvector.md R80 to R84). None needs a code instance. -/

namespace Sys2Proof.Machine

/-- I2V (R80). -/
def execI2v (x w : Nat) (s : State) : Result :=
  checked s <|
    if s.config.lmax.admits w = false ∨ 2 ^ w ≤ x then .next (raise .range s)
    else .next (complete (writeDout (vec w x) s))

/-- V2I (R81). -/
def execV2i (da : BitVector) (s : State) : Result :=
  checked s <| .next (complete (writeRval (uint da) s))

/-- VADD (R82). -/
def execVadd (da db : BitVector) (s : State) : Result :=
  checked s <|
    if da.length ≠ db.length then .next (raise .lengthMismatch s)
    else .next (complete (writeDout (gfAdd da db) s))

/-- FLIP (R83). -/
def execFlip (da : BitVector) (p : Nat) (s : State) : Result :=
  checked s <|
    if da.length ≤ p then .next (raise .range s)
    else .next (complete (writeDout (gfAdd da (unitVec da.length p)) s))

/-- INJRAND (R84) with the draw e, which the host supplies (R161): any member of `E(t, len(DA))`,
under no law. A draw outside the set is no host move and is refused (log entry 7). -/
def execInjrand (da : BitVector) (t : Nat) (e : BitVector) (s : State) : Result :=
  checked s <|
    if da.length < t then .next (raise .range s)
    else if inDrawSet t da.length e then .next (complete (writeDout (gfAdd da e) s))
    else .refused .drawOutsideSet

end Sys2Proof.Machine
end

