-- ==== Sys2Proof/Machine/Dispatch.lean ====
section
/-! DEFINITION. exec: one arm per instruction of 30_encoding.md R62, each one call of its meaning. -/

namespace Sys2Proof.Machine

def exec (i : Instr) (s : State) : Host.Outcome State Fault Refusal :=
  match i with
  -- construction (41_construct.md)
  | .construct k => Sys2Proof.Machine.execConstruct k s
  -- codec (42_codec.md)
  | .encode da => Sys2Proof.Machine.execEncode da s
  | .decode da => Sys2Proof.Machine.execDecode da s
  | .syndrome da => Sys2Proof.Machine.execSyndrome da s
  | .locate da => Sys2Proof.Machine.execLocate da s
  | .gf2mulG da => Sys2Proof.Machine.execGf2mulG da s
  | .gf2mulHT da => Sys2Proof.Machine.execGf2mulHT da s
  | .gf2mulGHT => Sys2Proof.Machine.execGf2mulGHT s
  -- bit-vector utilities (40_bitvector.md)
  | .vadd da db => Sys2Proof.Machine.execVadd da db s
  | .flip da p => Sys2Proof.Machine.execFlip da p s
  | .injrand da t e => Sys2Proof.Machine.execInjrand da t e s
  | .i2v x w => Sys2Proof.Machine.execI2v x w s
  | .v2i da => Sys2Proof.Machine.execV2i da s
  -- inspect (43_inspect.md)
  | .inspectHcol j => Sys2Proof.Machine.execInspectHcol j s
  | .inspectGcol j => Sys2Proof.Machine.execInspectGcol j s
  | .inspectGrow r => Sys2Proof.Machine.execInspectGrow r s
  | .inspectHrow j => Sys2Proof.Machine.execInspectHrow j s
  | .inspectMask => Sys2Proof.Machine.execInspectMask s

end Sys2Proof.Machine
end

