-- ==== Sys2Proof/Machine/Host.lean ====
section
/-! DEFINITION. The host's actions (60_exceptions.md R161): presenting a command (R141), reading a
register (10_state.md R38, R150) and asserting reset (70_reset_and_hazards.md R170). -/

namespace Sys2Proof.Machine

/-- A register's content carried over to what a host read gives. -/
def readAs {α : Type} (r : Reg α) (f : α → Value) : Reg Value :=
  match r with
  | .undef => .undef
  | .val v => .val (f v)

/-- What a host read of a register finds. -/
def hostView (r : HostReg) (s : State) : Reg Value :=
  match r with
  | .valid => .val (.bit s.valid)
  | .fault => .val (.bit s.fault)
  | .k => readAs s.k .scalar
  | .m => readAs s.m .scalar
  | .n => readAs s.n .scalar
  | .status => .val (.statusCode s.status)
  | .dout => readAs s.dout .vector
  | .syn => readAs s.syn .vector
  | .synval => readAs s.synval .scalar
  | .errdet => readAs s.errdet .bit
  | .outcome => readAs s.outcome .outcomeCode
  | .dvalid => readAs s.dvalid .bit
  | .rval => readAs s.rval .scalar

/-- A host read: no side effect on the block (R38). A register that holds UNDEF gives the host no value
(R37): the model fault ReadUndef is recorded (R150) and the machine goes on (log entry 15). -/
def hostRead (r : HostReg) (s : State) : Result :=
  match hostView r s with
  | .val v => .next (observe ⟨r, v⟩ s)
  | .undef => .next (recordFault (.readUndef r) s)

/-- Reset (R170): every register takes its reset value, whatever it held. The parameters, the host's
further actions, what it has read and the recorded model faults, which nothing clears (R150), are not
registers of the block and stay (log entry 9). -/
def hostReset (s : State) : State :=
  { State.resetWith s.config with
    pending := s.pending, observed := s.observed, modelFaults := s.modelFaults }

/-- A command presented with its operands: illegal words raise (R147), legal ones run. Operands beyond
the ports are no host move (R67) and are refused (log entry 6). -/
def hostCommand (w : BitVec 16) (p : Ports) (s : State) : Result :=
  if p.presentable s.config then
    match decode w p with
    | .ok i => exec i s
    | .illegal _ => illegalCommand s
  else .refused .operandBeyondPorts

end Sys2Proof.Machine
end

