-- ==== Sys2Proof/Machine/Step.lean ====
section
/-! DEFINITION. One step: the host's next action, taken from the front of `pending`
(20_memory.md R49, 70_reset_and_hazards.md R178). The block has no program counter (10_state.md R21). -/

namespace Sys2Proof.Machine

/-- One step. With no action pending the block idles: nothing changes (log entry 4). -/
def step (s : State) : Host.Outcome State Fault Refusal :=
  match s.pending with
  | [] => .next s
  | .command w p :: rest => hostCommand w p { s with pending := rest }
  | .read r :: rest => hostRead r { s with pending := rest }
  | .reset :: rest => .next (hostReset { s with pending := rest })

/-- `s` with the host about to present the word `w`, its operand ports at zero as `.cmd W` has them
(30_encoding.md R68), before its other actions (log entry 10). -/
def State.withFetchWord (s : State) (nbits w : Nat) : State :=
  { s with pending := .command (BitVec.ofNat 16 (w % 2 ^ nbits)) Ports.zero :: s.pending }

end Sys2Proof.Machine
end

