-- ==== Sys2Proof/Safety.lean ====
section
/-! DEFINITION. The terms claims are stated in: a block ready for the codec, the invariant of the
machine, a conforming configuration, and a run that ends well. -/

namespace Sys2Proof

/-- The numbers in `[1, n]` that are not powers of two, ascending: `q_0 < q_1 < ...` of
41_construct.md R93. -/
def infoNumbers (n : Nat) : List Nat := ((List.range n).map (· + 1)).filter fun x => !pow2 x

/-- The values of 30_encoding.md R62's CMD value column. -/
def legalWords : List Nat :=
  [0x0001, 0x0002, 0x0003, 0x0004, 0x0005, 0x0006, 0x0016, 0x0026, 0x0007, 0x0008, 0x0009, 0x000A,
   0x000B, 0x000C, 0x001C, 0x002C, 0x003C, 0x004C]

/-- The (OPC, SEL) pairs of R62's rows. -/
def legalPairs : List (Nat × Nat) :=
  [(0x1, 0), (0x2, 0), (0x3, 0), (0x4, 0), (0x5, 0), (0x6, 0), (0x6, 1), (0x6, 2), (0x7, 0), (0x8, 0),
   (0x9, 0), (0xA, 0), (0xB, 0), (0xC, 0), (0xC, 1), (0xC, 2), (0xC, 3), (0xC, 4)]

/-- `q_r`, the r-th number in `[1, n]` that is not a power of two (R93). -/
def infoNumber (n r : Nat) : Nat := (infoNumbers n).getD r 0

/-- The operands an instruction reads are those on the ports (30_encoding.md R66); the other ports are
ignored whatever they hold (R61). -/
def Instr.readFrom (i : Instr) (p : Ports) : Prop :=
  match i with
  | .construct k => k = p.arg
  | .encode da => da = p.da
  | .decode da => da = p.da
  | .syndrome da => da = p.da
  | .locate da => da = p.da
  | .gf2mulG da => da = p.da
  | .gf2mulHT da => da = p.da
  | .gf2mulGHT => True
  | .vadd da db => da = p.da ∧ db = p.db
  | .flip da q => da = p.da ∧ q = p.arg
  | .injrand da t e => da = p.da ∧ t = p.arg ∧ e = p.draw
  | .i2v x w => x = p.arg ∧ w = p.argb
  | .v2i da => da = p.da
  | .inspectHcol j => j = p.arg
  | .inspectGcol j => j = p.arg
  | .inspectGrow r => r = p.arg
  | .inspectHrow j => j = p.arg
  | .inspectMask => True

/-- The "instance" column of 30_encoding.md R66. -/
def Instr.needsInstance (i : Instr) : Bool :=
  match i with
  | .construct _ => false
  | .encode _ => true
  | .decode _ => true
  | .syndrome _ => true
  | .locate _ => true
  | .gf2mulG _ => true
  | .gf2mulHT _ => true
  | .gf2mulGHT => true
  | .vadd _ _ => false
  | .flip _ _ => false
  | .injrand _ _ _ => false
  | .i2v _ _ => false
  | .v2i _ => false
  | .inspectHcol _ => true
  | .inspectGcol _ => true
  | .inspectGrow _ => true
  | .inspectHrow _ => true
  | .inspectMask => true

/-- A configuration meets the constraints of 00_scope.md R1: `KMAX >= 1`,
`LMAX >= max(n, k*m)` for every admitted k, and `2^AW > max(KMAX, LMAX)`. -/
structure Config.Conforms (c : Config) : Prop where
  kmax : c.kmax.admits 1 = true
  lmax : ∀ k, 1 ≤ k → c.kmax.admits k = true →
    c.lmax.admits (Machine.deriveM k + k) = true ∧ c.lmax.admits (k * Machine.deriveM k) = true
  aw : ∀ w, c.aw = .bits w → ∃ a b, c.kmax = .atMost a ∧ c.lmax = .atMost b ∧ max a b < 2 ^ w

namespace Machine

/-- The block answers codec, multiplier and inspect commands on the instance c: no fault, and the
instance registers hold c (60_exceptions.md R141). -/
structure State.Ready (s : State) (c : CodeInstance) : Prop where
  noFault : s.fault = false
  isValid : s.valid = true
  holds : s.code = some c

/-- The invariant of every reachable state. -/
structure State.Inv (s : State) : Prop where
  /-- A fault destroyed the instance (R143). -/
  faultClears : s.fault = true → s.valid = false
  /-- Without an instance every instance register is UNDEF (R143, R170). -/
  cleared : s.valid = false →
    s.k = .undef ∧ s.m = .undef ∧ s.n = .undef ∧ s.h = .undef ∧ s.g = .undef ∧ s.mask = .undef
  /-- With VALID = 1 the registers hold what CONSTRUCT builds for an admitted k (R90). -/
  built : s.valid = true → ∃ k c, 1 ≤ k ∧ s.config.kmax.admits k = true ∧
    buildCode k = some c ∧ s.code = some c
  /-- Status codes 6 and 7 are never written (R140). -/
  statusCode : s.status.toNat ≤ 5
  /-- ERRDET and OUTCOME are written together; OUTCOME 3 is never written (R34). -/
  flags : (s.errdet = .undef ∧ s.outcome = .undef) ∨
    ∃ o : BitVec 2, s.outcome = .val o ∧ o.toNat ≤ 2 ∧ s.errdet = .val (decide (o ≠ 0))

/-- A host action that keeps the host's duties (60_exceptions.md R161) and reads no register that can
hold UNDEF. -/
def HostAction.dutiful (c : Config) (a : HostAction) : Bool :=
  match a with
  | .reset => true
  | .read r => r == .valid || r == .fault || r == .status
  | .command w p =>
      p.presentable c &&
        match decode w p with
        | .ok i => i.wellFormed c
        | .illegal _ => true

/-- The host's script runs to its end, in t, and no model fault occurred in it
(70_reset_and_hazards.md R178): none was recorded (60_exceptions.md R150). -/
def State.EndsWellIn (s t : State) : Prop :=
  Host.Core.run core s.pending.length s = .next t ∧ t.pending = [] ∧ t.modelFaults = s.modelFaults

end Machine

end Sys2Proof
end

