-- ==== Sys2Proof/Certificates/Slice0/Obligations.lean ====
section
/-! DEFINITION. The statements for the provers. Each docstring names the rule of spec/ it formalises;
a clause that rests on a choice of the model says so and names the log entry.

Where a statement says "on an instance the block holds" it is about `State.Ready s c`: no fault,
VALID = 1, the instance registers hold c. Where it says "a built instance" it is about
`buildCode k = some c` with `1 <= k`. -/

open Sys2Proof Sys2Proof.Machine

/-! ## Commands and their words -/

/-- 30_encoding.md R62 and R66, the 18 rows: each CMD value decodes to its instruction with exactly
the ports R66 names, whatever the ports hold. -/
def Obligations.TableWordsDecode : Prop := ∀ p : Ports,
  decode 0x0001 p = .ok (.construct p.arg) ∧
  decode 0x0002 p = .ok (.encode p.da) ∧
  decode 0x0003 p = .ok (.decode p.da) ∧
  decode 0x0004 p = .ok (.syndrome p.da) ∧
  decode 0x0005 p = .ok (.locate p.da) ∧
  decode 0x0006 p = .ok (.gf2mulG p.da) ∧
  decode 0x0016 p = .ok (.gf2mulHT p.da) ∧
  decode 0x0026 p = .ok .gf2mulGHT ∧
  decode 0x0007 p = .ok (.vadd p.da p.db) ∧
  decode 0x0008 p = .ok (.flip p.da p.arg) ∧
  decode 0x0009 p = .ok (.injrand p.da p.arg p.draw) ∧
  decode 0x000A p = .ok (.i2v p.arg p.argb) ∧
  decode 0x000B p = .ok (.v2i p.da) ∧
  decode 0x000C p = .ok (.inspectHcol p.arg) ∧
  decode 0x001C p = .ok (.inspectGcol p.arg) ∧
  decode 0x002C p = .ok (.inspectGrow p.arg) ∧
  decode 0x003C p = .ok (.inspectHrow p.arg) ∧
  decode 0x004C p = .ok .inspectMask

/-- 30_encoding.md R63: a word is legal iff it is one of the 18 values, iff RSV is 0 and its
(OPC, SEL) pair is a row of R62; the other 65 518 words are illegal. -/
def Obligations.LegalWordsAreTheTable : Prop :=
  (∀ (w : BitVec 16) (p : Ports),
    ((∃ i, decode w p = .ok i) ↔ w.toNat ∈ legalWords) ∧
    ((∃ i, decode w p = .ok i) ↔
      w.toNat / 256 = 0 ∧ (w.toNat % 16, w.toNat / 16 % 16) ∈ legalPairs)) ∧
  legalWords.Nodup ∧ 2 ^ 16 - legalWords.length = 65518

/-- 30_encoding.md R61, R62 and R66: the decoder answers an instruction exactly for its own command
word, with exactly the operands it reads taken from the ports (the other ports are ignored); and
decoding what the encoder writes gives every instruction back, at every operand value. -/
def Obligations.DecodeEncodeAgree : Prop :=
  (∀ (w : BitVec 16) (p : Ports) (i : Instr),
    decode w p = .ok i ↔ w = encodeWord i ∧ i.readFrom p) ∧
  ∀ i : Instr, decode (encode i).1 (encode i).2 = .ok i

/-- 20_memory.md R49, 30_encoding.md R60: when the host's next action presents a word that decodes to i
with presentable operands, the step is exec of i on the state with that action taken off the script. -/
def Obligations.StepRunsDecodedCommand : Prop :=
  ∀ (s : State) (w : BitVec 16) (p : Ports) (rest : List HostAction) (i : Instr),
    s.pending = .command w p :: rest → p.presentable s.config = true → decode w p = .ok i →
    step s = exec i { s with pending := rest }

/-- 60_exceptions.md R147 and 30_encoding.md R64: a word that is no row of R62, and so any word with an
RSV bit set, raises IllegalCommand: STATUS 4 and nothing else (while FAULT = 0, R141). -/
def Obligations.IllegalWordRaises : Prop :=
  ∀ (s : State) (w : BitVec 16) (p : Ports) (rest : List HostAction),
    s.pending = .command w p :: rest → p.presentable s.config = true → s.fault = false →
    (w.toNat ∉ legalWords → step s = .next { s with pending := rest, status := 4 }) ∧
    (w.toNat / 256 ≠ 0 → step s = .next { s with pending := rest, status := 4 })

/-- 60_exceptions.md R141: the order of the checks of a presented command: FAULT, the command word, the
code instance, then the instruction. -/
def Obligations.ChecksInOrder : Prop :=
  ∀ (s : State) (w : BitVec 16) (p : Ports) (rest : List HostAction),
    s.pending = .command w p :: rest → p.presentable s.config = true →
    (s.fault = true →
      step s = .next { s with
        pending := rest, status := 1, valid := false, k := .undef, m := .undef, n := .undef,
        h := .undef, g := .undef, mask := .undef }) ∧
    (s.fault = false → ∀ why, decode w p = .illegal why →
      step s = .next { s with pending := rest, status := 4 }) ∧
    (s.fault = false → ∀ i, decode w p = .ok i → i.needsInstance = true → s.valid = false →
      step s = .next { s with pending := rest, status := 3 }) ∧
    (s.fault = false → ∀ i, decode w p = .ok i → i.needsInstance = false ∨ s.valid = true →
      step s = exec i { s with pending := rest })

/-- 60_exceptions.md R161 and 30_encoding.md R67: the host moves the spec does not have. That the model
REFUSES them, by name, is the model's form of "no move" (log entries 6 and 7). -/
def Obligations.MissingMovesAreRefused : Prop :=
  (∀ (s : State) (w : BitVec 16) (p : Ports) (rest : List HostAction),
    s.pending = .command w p :: rest → p.presentable s.config = false →
    step s = .refused .operandBeyondPorts) ∧
  (∀ (a l lat : Nat) (b : Bound) (p : Ports),
    p.presentable ⟨b, .atMost l, .bits a, lat⟩ = true ↔
      p.arg < 2 ^ a ∧ p.argb < 2 ^ a ∧ p.da.length ≤ l ∧ p.db.length ≤ l) ∧
  (∀ (b : Bound) (lat : Nat) (p : Ports), p.presentable ⟨b, .unbounded, .unbounded, lat⟩ = true) ∧
  (∀ (s : State) (da e : BitVector) (t : Nat),
    s.fault = false → t ≤ da.length → inDrawSet t da.length e = false →
    exec (.injrand da t e) s = .refused .drawOutsideSet)

/-! ## Reset and host reads -/

/-- 70_reset_and_hazards.md R170: what reset leaves in the sixteen registers, at State.reset and
whenever the host asserts it, whatever they held. The clause of the step that keeps `config`, `observed`
and `modelFaults` and takes only the reset itself off `pending` is no rule of the spec: it is the model's,
log entry 9 (DEDUCED). State.reset's own parameters are the model's choice (log entry 5) and are not
stated. -/
def Obligations.ResetLeavesTheResetState : Prop :=
  (State.reset.valid = false ∧ State.reset.fault = false ∧ State.reset.status = 0 ∧
    State.reset.k = .undef ∧ State.reset.m = .undef ∧ State.reset.n = .undef ∧
    State.reset.h = .undef ∧ State.reset.g = .undef ∧ State.reset.mask = .undef ∧
    State.reset.dout = .undef ∧ State.reset.syn = .undef ∧ State.reset.synval = .undef ∧
    State.reset.errdet = .undef ∧ State.reset.outcome = .undef ∧ State.reset.dvalid = .undef ∧
    State.reset.rval = .undef) ∧
  ∀ (s : State) (rest : List HostAction), s.pending = .reset :: rest →
    step s = .next
      { valid := false, fault := false, k := .undef, m := .undef, n := .undef, h := .undef,
        g := .undef, mask := .undef, status := 0, dout := .undef, syn := .undef, synval := .undef,
        errdet := .undef, outcome := .undef, dvalid := .undef, rval := .undef,
        config := s.config, pending := rest, observed := s.observed, modelFaults := s.modelFaults }

/-- 60_exceptions.md R150, 10_state.md R37 and 70_reset_and_hazards.md R178: a host read of a register
that holds UNDEF gives no value and records the model fault ReadUndef, for each register that can hold
UNDEF and that the host reads directly; nothing else records one; no run clears a recorded fault, a reset
among its actions or not; and a script that begins with such a read does not end well. That the machine goes on after the record is
the model's reading of R150, log entry 15 (DEDUCED). -/
def Obligations.ReadOfUndefFaults : Prop :=
  (∀ (s : State) (rest : List HostAction),
    (s.pending = .read .k :: rest → s.k = .undef → step s = .next { s with
      pending := rest, modelFaults := s.modelFaults ++ [.readUndef .k] }) ∧
    (s.pending = .read .m :: rest → s.m = .undef → step s = .next { s with
      pending := rest, modelFaults := s.modelFaults ++ [.readUndef .m] }) ∧
    (s.pending = .read .n :: rest → s.n = .undef → step s = .next { s with
      pending := rest, modelFaults := s.modelFaults ++ [.readUndef .n] }) ∧
    (s.pending = .read .dout :: rest → s.dout = .undef → step s = .next { s with
      pending := rest, modelFaults := s.modelFaults ++ [.readUndef .dout] }) ∧
    (s.pending = .read .syn :: rest → s.syn = .undef → step s = .next { s with
      pending := rest, modelFaults := s.modelFaults ++ [.readUndef .syn] }) ∧
    (s.pending = .read .synval :: rest → s.synval = .undef → step s = .next { s with
      pending := rest, modelFaults := s.modelFaults ++ [.readUndef .synval] }) ∧
    (s.pending = .read .errdet :: rest → s.errdet = .undef → step s = .next { s with
      pending := rest, modelFaults := s.modelFaults ++ [.readUndef .errdet] }) ∧
    (s.pending = .read .outcome :: rest → s.outcome = .undef → step s = .next { s with
      pending := rest, modelFaults := s.modelFaults ++ [.readUndef .outcome] }) ∧
    (s.pending = .read .dvalid :: rest → s.dvalid = .undef → step s = .next { s with
      pending := rest, modelFaults := s.modelFaults ++ [.readUndef .dvalid] }) ∧
    (s.pending = .read .rval :: rest → s.rval = .undef → step s = .next { s with
      pending := rest, modelFaults := s.modelFaults ++ [.readUndef .rval] })) ∧
  (∀ s t : State, step s = .next t → t.modelFaults = s.modelFaults ∨
    ∃ r rest, s.pending = .read r :: rest ∧ hostView r s = .undef) ∧
  (∀ (n : Nat) (s t : State), Host.Core.run core n s = .next t → s.modelFaults <+: t.modelFaults) ∧
  ∀ (s t : State) (r : HostReg) (rest : List HostAction),
    s.pending = .read r :: rest → hostView r s = .undef → ¬ s.EndsWellIn t

/-- 10_state.md R38: a host read gives the register's value and has no side effect on the block: only
the script and what the host has read change. -/
def Obligations.HostReadHasNoSideEffect : Prop :=
  ∀ (s : State) (rest : List HostAction),
    (s.pending = .read .valid :: rest → step s = .next { s with
      pending := rest, observed := s.observed ++ [⟨.valid, .bit s.valid⟩] }) ∧
    (s.pending = .read .fault :: rest → step s = .next { s with
      pending := rest, observed := s.observed ++ [⟨.fault, .bit s.fault⟩] }) ∧
    (s.pending = .read .status :: rest → step s = .next { s with
      pending := rest, observed := s.observed ++ [⟨.status, .statusCode s.status⟩] }) ∧
    (∀ x, s.pending = .read .k :: rest → s.k = .val x → step s = .next { s with
      pending := rest, observed := s.observed ++ [⟨.k, .scalar x⟩] }) ∧
    (∀ x, s.pending = .read .m :: rest → s.m = .val x → step s = .next { s with
      pending := rest, observed := s.observed ++ [⟨.m, .scalar x⟩] }) ∧
    (∀ x, s.pending = .read .n :: rest → s.n = .val x → step s = .next { s with
      pending := rest, observed := s.observed ++ [⟨.n, .scalar x⟩] }) ∧
    (∀ v, s.pending = .read .dout :: rest → s.dout = .val v → step s = .next { s with
      pending := rest, observed := s.observed ++ [⟨.dout, .vector v⟩] }) ∧
    (∀ v, s.pending = .read .syn :: rest → s.syn = .val v → step s = .next { s with
      pending := rest, observed := s.observed ++ [⟨.syn, .vector v⟩] }) ∧
    (∀ x, s.pending = .read .synval :: rest → s.synval = .val x → step s = .next { s with
      pending := rest, observed := s.observed ++ [⟨.synval, .scalar x⟩] }) ∧
    (∀ b, s.pending = .read .errdet :: rest → s.errdet = .val b → step s = .next { s with
      pending := rest, observed := s.observed ++ [⟨.errdet, .bit b⟩] }) ∧
    (∀ o, s.pending = .read .outcome :: rest → s.outcome = .val o → step s = .next { s with
      pending := rest, observed := s.observed ++ [⟨.outcome, .outcomeCode o⟩] }) ∧
    (∀ b, s.pending = .read .dvalid :: rest → s.dvalid = .val b → step s = .next { s with
      pending := rest, observed := s.observed ++ [⟨.dvalid, .bit b⟩] }) ∧
    (∀ x, s.pending = .read .rval :: rest → s.rval = .val x → step s = .next { s with
      pending := rest, observed := s.observed ++ [⟨.rval, .scalar x⟩] })

/-- 10_state.md R21: the block never chooses a command of its own. That a step with no action pending
leaves the state as it is, is the model's choice (log entry 4). -/
def Obligations.IdleBlockStays : Prop := ∀ s : State, s.pending = [] → step s = .next s

/-! ## Errors -/

/-- 60_exceptions.md R143 and 10_state.md R24: while FAULT = 1 every instruction raises
ConstructionError, which leaves FAULT set, clears VALID and the instance registers, writes STATUS 1 and
nothing else. -/
def Obligations.FaultedBlockOnlyRaises : Prop :=
  ∀ (i : Instr) (s : State), s.fault = true →
    exec i s = .next { s with
      status := 1, valid := false, k := .undef, m := .undef, n := .undef, h := .undef,
      g := .undef, mask := .undef }

/-- 60_exceptions.md R146: ENCODE, DECODE, SYNDROME, LOCATE, every GF2MUL and every INSPECT form raise
NoInstance while VALID = 0: STATUS 3 only. -/
def Obligations.NoInstanceRaised : Prop :=
  ∀ s : State, s.fault = false → s.valid = false →
    (∀ da, exec (.encode da) s = .next { s with status := 3 }) ∧
    (∀ da, exec (.decode da) s = .next { s with status := 3 }) ∧
    (∀ da, exec (.syndrome da) s = .next { s with status := 3 }) ∧
    (∀ da, exec (.locate da) s = .next { s with status := 3 }) ∧
    (∀ da, exec (.gf2mulG da) s = .next { s with status := 3 }) ∧
    (∀ da, exec (.gf2mulHT da) s = .next { s with status := 3 }) ∧
    exec .gf2mulGHT s = .next { s with status := 3 } ∧
    (∀ j, exec (.inspectHcol j) s = .next { s with status := 3 }) ∧
    (∀ j, exec (.inspectGcol j) s = .next { s with status := 3 }) ∧
    (∀ r, exec (.inspectGrow r) s = .next { s with status := 3 }) ∧
    (∀ j, exec (.inspectHrow j) s = .next { s with status := 3 }) ∧
    exec .inspectMask s = .next { s with status := 3 }

/-- 70_reset_and_hazards.md R171: reset is the only way to clear FAULT and, besides a
ConstructionError, the only way to clear VALID; and reset is complete: what it leaves does not depend
on what any register held. -/
def Obligations.OnlyResetClearsFault : Prop :=
  (∀ s t : State, step s = .next t → s.fault = true → t.fault = false →
    ∃ rest, s.pending = .reset :: rest) ∧
  (∀ s t : State, step s = .next t → s.valid = true → t.valid = false →
    (∃ rest, s.pending = .reset :: rest) ∨ (t.fault = true ∧ t.status = 1)) ∧
  (∀ (s s' : State) (rest : List HostAction), s.pending = .reset :: rest → s'.pending = s.pending →
    s'.config = s.config → s'.observed = s.observed → s'.modelFaults = s.modelFaults →
    step s' = step s)

/-- 60_exceptions.md R142: a raise changes STATUS only, but for the effects of a ConstructionError. -/
def Obligations.RaiseWritesStatusOnly : Prop :=
  ∀ (i : Instr) (s t : State), exec i s = .next t → t.status ≠ 0 →
    (t.status = 1 → t = { s with
      status := 1, fault := true, valid := false, k := .undef, m := .undef, n := .undef,
      h := .undef, g := .undef, mask := .undef }) ∧
    (t.status ≠ 1 → t = { s with status := t.status })

/-! ## Frames -/

/-- 10_state.md R39: no step but a CONSTRUCT command and a reset changes an instance register, and a
successful CONSTRUCT replaces the whole instance. The premise `s.Inv` rules out a state with FAULT = 1
and a live instance, which no run reaches. -/
def Obligations.OnlyConstructWritesInstance : Prop :=
  (∀ s t : State, s.Inv → step s = .next t → (∀ rest, s.pending ≠ .reset :: rest) →
    (∀ p rest, s.pending ≠ .command 0x0001 p :: rest) →
    t.valid = s.valid ∧ t.k = s.k ∧ t.m = s.m ∧ t.n = s.n ∧ t.h = s.h ∧ t.g = s.g ∧
      t.mask = s.mask) ∧
  (∀ (k : Nat) (s t : State), exec (.construct k) s = .next t → t.status = 0 →
    ∃ c, buildCode k = some c ∧ t.valid = true ∧ t.k = .val c.k ∧ t.m = .val c.m ∧
      t.n = .val c.n ∧ t.h = .val c.h ∧ t.g = .val c.g ∧ t.mask = .val c.mask)

/-- 10_state.md R32 to R36: the result registers each instruction may write; every other result
register, the parameters, the host's script, what it has read and the recorded model faults keep their
values, and DOUT changes only when the command ends with OK. -/
def Obligations.ResultRegisterFrame : Prop :=
  ∀ (i : Instr) (s t : State), exec i s = .next t →
    (match i with
      | .construct _ | .syndrome _ | .locate _ | .v2i _ => t.dout = s.dout
      | _ => t.status ≠ 0 → t.dout = s.dout) ∧
    (match i with
      | .decode _ | .syndrome _ => t.status ≠ 0 → t.syn = s.syn
      | _ => t.syn = s.syn) ∧
    (match i with
      | .decode _ | .syndrome _ | .locate _ => t.status ≠ 0 → t.synval = s.synval
      | _ => t.synval = s.synval) ∧
    (match i with
      | .decode _ | .locate _ => t.status ≠ 0 → t.errdet = s.errdet ∧ t.outcome = s.outcome
      | _ => t.errdet = s.errdet ∧ t.outcome = s.outcome) ∧
    (match i with
      | .decode _ => t.status ≠ 0 → t.dvalid = s.dvalid
      | _ => t.dvalid = s.dvalid) ∧
    (match i with
      | .v2i _ | .locate _ => t.status ≠ 0 → t.rval = s.rval
      | _ => t.rval = s.rval) ∧
    t.config = s.config ∧ t.pending = s.pending ∧ t.observed = s.observed ∧
    t.modelFaults = s.modelFaults

/-- 10_state.md R37, "no command reads a result register", and R31: what a command writes, its STATUS
among it, does not depend on what the result registers held. Each result register is either given the
same value in both runs or kept in both. -/
def Obligations.NoCommandReadsResultRegisters : Prop :=
  ∀ (i : Instr) (s s' t : State),
    s'.valid = s.valid → s'.fault = s.fault → s'.k = s.k → s'.m = s.m → s'.n = s.n → s'.h = s.h →
    s'.g = s.g → s'.mask = s.mask → s'.config = s.config → exec i s = .next t →
    ∃ t', exec i s' = .next t' ∧ t'.status = t.status ∧
      t'.valid = t.valid ∧ t'.fault = t.fault ∧ t'.k = t.k ∧ t'.m = t.m ∧ t'.n = t.n ∧
      t'.h = t.h ∧ t'.g = t.g ∧ t'.mask = t.mask ∧
      (t'.dout = t.dout ∨ (t.dout = s.dout ∧ t'.dout = s'.dout)) ∧
      (t'.syn = t.syn ∨ (t.syn = s.syn ∧ t'.syn = s'.syn)) ∧
      (t'.synval = t.synval ∨ (t.synval = s.synval ∧ t'.synval = s'.synval)) ∧
      (t'.errdet = t.errdet ∨ (t.errdet = s.errdet ∧ t'.errdet = s'.errdet)) ∧
      (t'.outcome = t.outcome ∨ (t.outcome = s.outcome ∧ t'.outcome = s'.outcome)) ∧
      (t'.dvalid = t.dvalid ∨ (t.dvalid = s.dvalid ∧ t'.dvalid = s'.dvalid)) ∧
      (t'.rval = t.rval ∨ (t.rval = s.rval ∧ t'.rval = s'.rval))

/-! ## The invariant and whole runs -/

/-- The state after reset meets the invariant, for every choice of the parameters (R140, R143, R170). -/
def Obligations.ResetMeetsInvariant : Prop :=
  State.reset.Inv ∧ ∀ c : Config, (State.resetWith c).Inv

/-- Every step keeps the invariant: FAULT = 1 leaves no instance; VALID = 0 leaves the instance
registers UNDEF; VALID = 1 means they hold what CONSTRUCT builds for an admitted k; STATUS 6 and 7 and
OUTCOME 3 never appear; ERRDET is 1 iff OUTCOME is not CLEAN (R34, R37, R140, R143). -/
def Obligations.StepKeepsInvariant : Prop := ∀ s t : State, s.Inv → step s = .next t → t.Inv

/-- 70_reset_and_hazards.md R176: every command completes: an instruction the host can present answers
a next state, in every state that meets the invariant; and the search of R91 stops at some
`m <= floor(log2 k) + 2`. -/
def Obligations.EveryCommandCompletes : Prop :=
  (∀ (i : Instr) (s : State), s.Inv → i.wellFormed s.config = true → ∃ t, exec i s = .next t) ∧
  ∀ k : Nat, 1 ≤ k → deriveM k ≤ Nat.log2 k + 2

/-- 70_reset_and_hazards.md R176 and R178: a script whose commands keep the host's duties, with resets
and with reads of registers that never hold UNDEF, runs to its end with no model fault, and the
invariant holds there. -/
def Obligations.DutifulRunEndsWell : Prop :=
  ∀ s : State, s.Inv → (∀ a ∈ s.pending, a.dutiful s.config = true) →
    ∃ t, s.EndsWellIn t ∧ t.Inv

/-! ## Notation -/

/-- 00_scope.md R3 and R4: uint is the sum with the most significant bit first, vec_w(x) is the w-bit
vector with the stated bits, and the two undo each other. -/
def Obligations.UintAndVecAreInverse : Prop :=
  (∀ v : BitVector, uint v =
    ((List.range v.length).map fun i => (v.getD i false).toNat * 2 ^ (v.length - 1 - i)).sum) ∧
  (∀ w x : Nat, (vec w x).length = w) ∧
  (∀ w x i : Nat, i < w → ((vec w x).getD i false = true ↔ x / 2 ^ (w - 1 - i) % 2 = 1)) ∧
  (∀ w x : Nat, x < 2 ^ w → uint (vec w x) = x) ∧
  ∀ v : BitVector, vec v.length (uint v) = v

/-- 00_scope.md R8: the entries of the GF(2) products are the integer sums reduced modulo 2; for a
vector they are the XOR of the selected entries. -/
def Obligations.ProductsAreSumsModTwo : Prop :=
  (∀ (v : BitVector) (b : BitMatrix), (vecMul v b).length = b.cols) ∧
  (∀ (v : BitVector) (b : BitMatrix) (j : Nat), j < b.cols →
    ((vecMul v b).getD j false).toNat =
      ((List.range v.length).map fun l => (v.getD l false).toNat * (b.entry l j).toNat).sum % 2) ∧
  (∀ (v : BitVector) (b : BitMatrix) (j : Nat), j < b.cols →
    (vecMul v b).getD j false =
      ((List.range v.length).filter fun l => v.getD l false).foldl (fun x l => x ^^ b.entry l j)
        false) ∧
  (∀ (a b : BitMatrix) (i j : Nat), i < a.bits.length → (a.row i).length = b.rows → j < b.cols →
    ((matMul a b).entry i j).toNat =
      ((List.range b.rows).map fun l => (a.entry i l).toNat * (b.entry l j).toNat).sum % 2)

/-! ## Bit-vector utilities and error injection -/

/-- 40_bitvector.md R80. -/
def Obligations.I2vConverts : Prop :=
  (∀ p : Ports, decode 0x000A p = .ok (.i2v p.arg p.argb)) ∧
  (∀ (s : State) (x w : Nat), s.fault = false →
    (s.config.lmax.admits w = true → x < 2 ^ w →
      exec (.i2v x w) s = .next { s with dout := .val (vec w x), status := 0 }) ∧
    (s.config.lmax.admits w = false ∨ 2 ^ w ≤ x →
      exec (.i2v x w) s = .next { s with status := 5 })) ∧
  (∀ w : Nat, vec w (2 ^ w - 1) = List.replicate w true) ∧
  ∀ w : Nat, vec w 0 = zeroVec w

/-- 40_bitvector.md R81. -/
def Obligations.V2iConverts : Prop :=
  (∀ p : Ports, decode 0x000B p = .ok (.v2i p.da)) ∧
  (∀ (s : State) (da : BitVector), s.fault = false →
    exec (.v2i da) s = .next { s with rval := .val (uint da), status := 0 }) ∧
  uint [] = 0 ∧
  (∀ (z : Nat) (v : BitVector), uint (zeroVec z ++ v) = uint v) ∧
  (∀ l : Nat, uint (List.replicate l true) = 2 ^ l - 1) ∧
  ∀ v : BitVector, uint v < 2 ^ v.length

/-- 40_bitvector.md R82: DOUT is the index-by-index XOR; a wrong length is LengthMismatch. -/
def Obligations.VaddAddsThePattern : Prop :=
  (∀ p : Ports, decode 0x0007 p = .ok (.vadd p.da p.db)) ∧
  (∀ (s : State) (da db : BitVector), s.fault = false →
    (da.length = db.length → exec (.vadd da db) s =
      .next { s with dout := .val (List.zipWith Bool.xor da db), status := 0 }) ∧
    (da.length ≠ db.length → exec (.vadd da db) s = .next { s with status := 2 })) ∧
  (∀ v : BitVector, gfAdd v (zeroVec v.length) = v ∧ gfAdd v v = zeroVec v.length) ∧
  ∀ u v : BitVector, u.length = v.length → gfAdd (gfAdd u v) v = u

/-- 40_bitvector.md R83: FLIP inverts the one bit at p and leaves every other bit. -/
def Obligations.FlipInvertsOneBit : Prop :=
  (∀ p : Ports, decode 0x0008 p = .ok (.flip p.da p.arg)) ∧
  ∀ (s : State) (da : BitVector) (p : Nat), s.fault = false →
    (p < da.length → exec (.flip da p) s =
      .next { s with dout := .val (da.set p (!da.getD p false)), status := 0 }) ∧
    (da.length ≤ p → exec (.flip da p) s = .next { s with status := 5 })

/-- 40_bitvector.md R84: for every draw in E(t, L), INJRAND adds the draw; the draw set is as stated;
t above the length is Range whatever the draw. -/
def Obligations.InjrandAddsItsDraw : Prop :=
  (∀ p : Ports, decode 0x0009 p = .ok (.injrand p.da p.arg p.draw)) ∧
  (∀ (s : State) (da e : BitVector) (t : Nat), s.fault = false →
    (t ≤ da.length → inDrawSet t da.length e = true → exec (.injrand da t e) s =
      .next { s with dout := .val (List.zipWith Bool.xor da e), status := 0 }) ∧
    (da.length < t → exec (.injrand da t e) s = .next { s with status := 5 })) ∧
  (∀ (l : Nat) (e : BitVector), inDrawSet 0 l e = true ↔ e = zeroVec l) ∧
  (∀ (l : Nat) (e : BitVector), inDrawSet 1 l e = true ↔ ∃ p < l, e = unitVec l p) ∧
  (∀ (t l : Nat) (e : BitVector), 2 ≤ t →
    (inDrawSet t l e = true ↔ e.length = l ∧ popcount e ≤ t)) ∧
  ∀ da : BitVector, List.zipWith Bool.xor da (zeroVec da.length) = da

/-- 40_bitvector.md R85: FLIP with position p writes what VADD with the unit pattern writes. -/
def Obligations.FlipIsVaddOfUnit : Prop :=
  ∀ (s : State) (da : BitVector) (p : Nat), p < da.length →
    exec (.flip da p) s = exec (.vadd da (unitVec da.length p)) s

/-! ## Construction -/

/-- 41_construct.md R91: derive_m gives the least m with `2^m - m - 1 >= k`, and the ranges of k and
n. -/
def Obligations.DerivedMIsMinimal : Prop := ∀ k : Nat, 1 ≤ k →
  2 ≤ deriveM k ∧ k ≤ 2 ^ deriveM k - deriveM k - 1 ∧
  (∀ j, 1 ≤ j → j < deriveM k → 2 ^ j - j - 1 < k) ∧
  (∀ m, 2 ≤ m → 2 ^ (m - 1) - m + 1 ≤ k → k ≤ 2 ^ m - m - 1 → m = deriveM k) ∧
  2 ^ (deriveM k - 1) - deriveM k + 1 ≤ k ∧
  2 ^ (deriveM k - 1) + 1 ≤ deriveM k + k ∧ deriveM k + k ≤ 2 ^ deriveM k - 1

/-- 41_construct.md R105 and R100: for every admitted k >= 1 CONSTRUCT commits the instance the rules
build, whole, and writes nothing else but STATUS; ConstructionError is raised only for k = 0. -/
def Obligations.ConstructCommits : Prop :=
  (∀ (s : State) (k : Nat), s.fault = false → 1 ≤ k → s.config.kmax.admits k = true →
    ∃ c, buildCode k = some c ∧ c.k = k ∧ c.m = deriveM k ∧ c.n = c.m + k ∧
      c.h = parity c.m c.n ∧
      exec (.construct k) s = .next { s with
        valid := true, k := .val k, m := .val c.m, n := .val c.n, h := .val c.h, g := .val c.g,
        mask := .val c.mask, status := 0 }) ∧
  ∀ (s t : State) (k : Nat), s.fault = false → exec (.construct k) s = .next t → t.status = 1 → k = 0

/-- 41_construct.md R90, 60_exceptions.md R143 and R145: CONSTRUCT 0 is the fatal ConstructionError; a k
above KMAX is Range and leaves the old instance in place. -/
def Obligations.ConstructRejects : Prop :=
  (∀ s : State, s.fault = false →
    exec (.construct 0) s = .next { s with
      status := 1, fault := true, valid := false, k := .undef, m := .undef, n := .undef,
      h := .undef, g := .undef, mask := .undef }) ∧
  ∀ (s : State) (k : Nat), s.fault = false → s.config.kmax.admits k = false →
    exec (.construct k) s = .next { s with status := 5 }

/-- 41_construct.md R92: column c of H is `vec_m(c + 1)`, row 0 its most significant bit; the columns
are distinct and none is zero. -/
def Obligations.ParityColumnsCount : Prop :=
  ∀ (k : Nat) (c : CodeInstance), 1 ≤ k → buildCode k = some c →
    c.h.rows = c.m ∧ c.h.cols = c.n ∧
    (∀ j < c.n, c.h.col j = vec c.m (j + 1) ∧ c.h.colval j = j + 1 ∧ c.h.col j ≠ zeroVec c.m) ∧
    (∀ i < c.m, ∀ j < c.n, c.h.entry i j = (vec c.m (j + 1)).getD i false) ∧
    ∀ i < c.n, ∀ j < c.n, c.h.col i = c.h.col j → i = j

/-- 41_construct.md R93: S is m×n with the column values `2^(m-1-i)` and then the q_r, Q is m×k with
the columns `vec_m(q_r)`, and the columns of S are pairwise distinct. -/
def Obligations.SystemizedColumns : Prop := ∀ k : Nat, 1 ≤ k →
  let m := deriveM k
  let n := m + k
  let sq := systemize (parity m n)
  sq.1.rows = m ∧ sq.1.cols = n ∧ sq.2.rows = m ∧ sq.2.cols = k ∧ (infoNumbers n).length = k ∧
  (∀ i < m, sq.1.colval i = 2 ^ (m - 1 - i)) ∧
  (∀ r < k, sq.2.col r = vec m (infoNumber n r) ∧ sq.1.col (m + r) = sq.2.col r ∧
    sq.1.colval (m + r) = infoNumber n r) ∧
  ∀ i < n, ∀ j < n, sq.1.col i = sq.1.col j → i = j

/-- 41_construct.md R94 and R95: the lookup never fails; each original column stands at exactly one
place in S; the record lists exactly the columns that moved, by ascending original index, each with
that place; the map is onto; the parity and information columns move as stated; the record's first and
second components are the same set; and an information position in the record moves up. -/
def Obligations.RecordIsTheColumnMap : Prop := ∀ k : Nat, 1 ≤ k →
  let m := deriveM k
  let n := m + k
  let h := parity m n
  let s := (systemize h).1
  (∀ c < n, ∃ f < n, s.col f = h.col c ∧ ∀ f' < n, s.col f' = h.col c → f' = f) ∧
  (∀ f < n, ∃ c < n, s.col f = h.col c) ∧
  (∀ i < m, s.col (m - 1 - i) = h.col (2 ^ i - 1)) ∧
  (∀ r < k, s.col (m + r) = h.col (infoNumber n r - 1)) ∧
  ∃ p, record h s = some p ∧
    p.map Prod.fst = ((List.range n).filter fun c => s.col c != h.col c) ∧
    (∀ cf ∈ p, cf.2 < n ∧ s.col cf.2 = h.col cf.1) ∧
    (∀ x, x ∈ p.map Prod.fst ↔ x ∈ p.map Prod.snd) ∧
    ∀ cf ∈ p, pow2 (cf.1 + 1) = false → cf.1 < cf.2

/-- 41_construct.md R104: G does not depend on the order in which the record's pairs are applied; the
mask does. -/
def Obligations.CopyOrderIsIrrelevant : Prop :=
  (∀ (k : Nat) (p p' : List (Nat × Nat)), 1 ≤ k →
    record (parity (deriveM k) (deriveM k + k))
      (systemize (parity (deriveM k) (deriveM k + k))).1 = some p →
    p'.Perm p →
    generator (standardGenerator (systemize (parity (deriveM k) (deriveM k + k))).2 k) p' =
      generator (standardGenerator (systemize (parity (deriveM k) (deriveM k + k))).2 k) p) ∧
  ∃ (k : Nat) (p p' : List (Nat × Nat)), 1 ≤ k ∧
    record (parity (deriveM k) (deriveM k + k))
      (systemize (parity (deriveM k) (deriveM k + k))).1 = some p ∧
    p'.Perm p ∧ infoMask p' (deriveM k) k ≠ infoMask p (deriveM k) k

/-- 41_construct.md R101: `G ×2 H^T` is the k×m zero matrix. -/
def Obligations.GeneratorIsOrthogonal : Prop :=
  ∀ (k : Nat) (c : CodeInstance), 1 ≤ k → buildCode k = some c →
    matMul c.g c.h.transpose = ⟨k, c.m, List.replicate k (zeroVec c.m)⟩

/-- 41_construct.md R102: the mask is 1 exactly where c + 1 is no power of two, has k ones, and its
information positions are the `q_r - 1` in ascending order. -/
def Obligations.MaskMarksNonPowers : Prop :=
  ∀ (k : Nat) (c : CodeInstance), 1 ≤ k → buildCode k = some c →
    c.mask.length = c.n ∧
    (∀ i < c.n, c.mask.getD i false = !pow2 (i + 1)) ∧
    (∀ x, pow2 x = true ↔ ∃ i, x = 2 ^ i) ∧
    popcount c.mask = k ∧
    ((List.range c.n).filter fun i => c.mask.getD i false) = (infoNumbers c.n).map (· - 1)

/-- 41_construct.md R103: the closed form of G. -/
def Obligations.GeneratorClosedForm : Prop :=
  ∀ (k : Nat) (c : CodeInstance), 1 ≤ k → buildCode k = some c →
    c.g.rows = k ∧ c.g.cols = c.n ∧
    (∀ r < k, ∀ j < c.n, (c.g.entry r j = true ↔
      j = infoNumber c.n r - 1 ∨
        ∃ i < c.m, j = 2 ^ i - 1 ∧ (infoNumber c.n r).testBit i = true)) ∧
    ∀ r < k, vecMul (unitVec k r) c.g = c.g.row r

/-- 10_state.md R40: what the instance registers satisfy whenever VALID = 1, in every state that meets
the invariant. -/
def Obligations.InstanceRegistersFormACode : Prop :=
  ∀ s : State, s.Inv → s.valid = true →
    ∃ (k m n : Nat) (h g : BitMatrix) (mask : BitVector),
      s.k = .val k ∧ s.m = .val m ∧ s.n = .val n ∧ s.h = .val h ∧ s.g = .val g ∧
      s.mask = .val mask ∧
      1 ≤ k ∧ 1 ≤ m ∧ k ≤ 2 ^ m - m - 1 ∧ (∀ j, 1 ≤ j → j < m → 2 ^ j - j - 1 < k) ∧
      n = m + k ∧ (∀ c < n, h.colval c = c + 1) ∧
      matMul g h.transpose = ⟨k, m, List.replicate k (zeroVec m)⟩ ∧
      popcount mask = k ∧
      ∀ c < n, (mask.getD c false = true ↔ ¬ ∃ i, c + 1 = 2 ^ i)

/-! ## Codec and multiplier -/

/-- 42_codec.md R110: ENCODE on an instance the block holds; and, on a built instance, the corner
cases. -/
def Obligations.EncodeMultipliesByG : Prop :=
  (∀ p : Ports, decode 0x0002 p = .ok (.encode p.da)) ∧
  (∀ (s : State) (c : CodeInstance) (da : BitVector), s.Ready c →
    (da.length = c.k →
      exec (.encode da) s = .next { s with dout := .val (vecMul da c.g), status := 0 }) ∧
    (da.length ≠ c.k → exec (.encode da) s = .next { s with status := 2 })) ∧
  ∀ (k : Nat) (c : CodeInstance), 1 ≤ k → buildCode k = some c →
    vecMul (zeroVec k) c.g = zeroVec c.n ∧
    (∀ r < k, vecMul (unitVec k r) c.g = c.g.row r) ∧
    ∀ da : BitVector, da.length = k → ∀ r < k,
      (vecMul da c.g).getD (infoNumber c.n r - 1) false = da.getD r false

/-- 42_codec.md R111: DECODE on an instance the block holds, in its four cases; and, on a built
instance, that the decoded word has K bits, that an error in a parity position does not change it, and
that a syndrome value above N needs `N < 2^M - 1`. -/
def Obligations.DecodeCorrectsAndExtracts : Prop :=
  (∀ p : Ports, decode 0x0003 p = .ok (.decode p.da)) ∧
  (∀ (s : State) (c : CodeInstance) (da : BitVector), s.Ready c →
    (da.length ≠ c.n → exec (.decode da) s = .next { s with status := 2 }) ∧
    (da.length = c.n → uint (vecMul da c.h.transpose) = 0 →
      exec (.decode da) s = .next { s with
        syn := .val (vecMul da c.h.transpose), synval := .val 0, errdet := .val false,
        outcome := .val 0, dvalid := .val true, status := 0,
        dout := .val (((List.range c.n).filter fun i => c.mask.getD i false).map fun i =>
          da.getD i false) }) ∧
    (∀ v, da.length = c.n → uint (vecMul da c.h.transpose) = v → 1 ≤ v → v ≤ c.n →
      exec (.decode da) s = .next { s with
        syn := .val (vecMul da c.h.transpose), synval := .val v, errdet := .val true,
        outcome := .val 1, dvalid := .val true, status := 0,
        dout := .val (((List.range c.n).filter fun i => c.mask.getD i false).map fun i =>
          (da.set (v - 1) (!da.getD (v - 1) false)).getD i false) }) ∧
    (∀ v, da.length = c.n → uint (vecMul da c.h.transpose) = v → c.n < v →
      exec (.decode da) s = .next { s with
        syn := .val (vecMul da c.h.transpose), synval := .val v, errdet := .val true,
        outcome := .val 2, dvalid := .val false, status := 0, dout := .val [] })) ∧
  ∀ (k : Nat) (c : CodeInstance), 1 ≤ k → buildCode k = some c →
    (∀ w : BitVector, (extractInfo c w).length = k) ∧
    (∀ (w : BitVector) (p : Nat), pow2 (p + 1) = true →
      extractInfo c (w.set p (!w.getD p false)) = extractInfo c w) ∧
    ∀ w : BitVector, c.n < uint (vecMul w c.h.transpose) → c.n < 2 ^ c.m - 1

/-- 42_codec.md R112: SYNDROME writes SYN and SYNVAL only; on a built instance a zero word and every
codeword have the zero syndrome, and where `N < 2^M - 1` some word's SYNVAL exceeds N. -/
def Obligations.SyndromeWritesSynOnly : Prop :=
  (∀ p : Ports, decode 0x0004 p = .ok (.syndrome p.da)) ∧
  (∀ (s : State) (c : CodeInstance) (da : BitVector), s.Ready c →
    (da.length = c.n → exec (.syndrome da) s = .next { s with
      syn := .val (vecMul da c.h.transpose), synval := .val (uint (vecMul da c.h.transpose)),
      status := 0 }) ∧
    (da.length ≠ c.n → exec (.syndrome da) s = .next { s with status := 2 })) ∧
  ∀ (k : Nat) (c : CodeInstance), 1 ≤ k → buildCode k = some c →
    (vecMul (zeroVec c.n) c.h.transpose = zeroVec c.m ∧
      ∀ w : BitVector, w.length = k → vecMul (vecMul w c.g) c.h.transpose = zeroVec c.m) ∧
    (c.n < 2 ^ c.m - 1 → ∃ w : BitVector, w.length = c.n ∧
      c.n < uint (vecMul w c.h.transpose))

/-- 42_codec.md R113: LOCATE in its four cases; RVAL is written only when the outcome is CORRECTED. -/
def Obligations.LocateRecoversPosition : Prop :=
  (∀ p : Ports, decode 0x0005 p = .ok (.locate p.da)) ∧
  ∀ (s : State) (c : CodeInstance) (da : BitVector), s.Ready c →
    (da.length ≠ c.m → exec (.locate da) s = .next { s with status := 2 }) ∧
    (da.length = c.m → uint da = 0 → exec (.locate da) s = .next { s with
      synval := .val 0, errdet := .val false, outcome := .val 0, status := 0 }) ∧
    (∀ v, da.length = c.m → uint da = v → 1 ≤ v → v ≤ c.n → exec (.locate da) s = .next { s with
      synval := .val v, errdet := .val true, outcome := .val 1, rval := .val (v - 1),
      status := 0 }) ∧
    (∀ v, da.length = c.m → uint da = v → 1 ≤ v → c.n < v → exec (.locate da) s = .next { s with
      synval := .val v, errdet := .val true, outcome := .val 2, status := 0 })

/-- 42_codec.md R114 and R124: GF2MUL.G; it does what ENCODE does, and SYNDROME's SYN is the DOUT of
GF2MUL.HT. -/
def Obligations.Gf2mulGIsEncode : Prop :=
  (∀ p : Ports, decode 0x0006 p = .ok (.gf2mulG p.da)) ∧
  (∀ (s : State) (c : CodeInstance) (da : BitVector), s.Ready c →
    (da.length = c.k →
      exec (.gf2mulG da) s = .next { s with dout := .val (vecMul da c.g), status := 0 }) ∧
    (da.length ≠ c.k → exec (.gf2mulG da) s = .next { s with status := 2 })) ∧
  (∀ (s : State) (da : BitVector), exec (.gf2mulG da) s = exec (.encode da) s) ∧
  ∀ (s : State) (c : CodeInstance) (da : BitVector), s.Ready c → da.length = c.n →
    ∃ t t', exec (.syndrome da) s = .next t ∧ exec (.gf2mulHT da) s = .next t' ∧ t.syn = t'.dout

/-- 42_codec.md R115: GF2MUL.HT; on a built instance a unit vector gives a column of H. -/
def Obligations.Gf2mulHtMultiplies : Prop :=
  (∀ p : Ports, decode 0x0016 p = .ok (.gf2mulHT p.da)) ∧
  (∀ (s : State) (c : CodeInstance) (da : BitVector), s.Ready c →
    (da.length = c.n →
      exec (.gf2mulHT da) s = .next { s with dout := .val (vecMul da c.h.transpose), status := 0 }) ∧
    (da.length ≠ c.n → exec (.gf2mulHT da) s = .next { s with status := 2 })) ∧
  ∀ (k : Nat) (c : CodeInstance), 1 ≤ k → buildCode k = some c → ∀ j < c.n,
    vecMul (unitVec c.n j) c.h.transpose = vec c.m (j + 1) ∧ c.h.col j = vec c.m (j + 1)

/-- 42_codec.md R116: GF2MUL.GHT gives the product row by row, or Range when it does not fit; on a
built instance the product is all zeros, and in a conforming configuration it fits. -/
def Obligations.Gf2mulGhtMultiplies : Prop :=
  (∀ p : Ports, decode 0x0026 p = .ok .gf2mulGHT) ∧
  (∀ (s : State) (c : CodeInstance), s.Ready c →
    (s.config.lmax.admits (c.k * c.m) = true → exec .gf2mulGHT s = .next { s with
      dout := .val (c.g.bits.map fun row => vecMul row c.h.transpose).flatten, status := 0 }) ∧
    (s.config.lmax.admits (c.k * c.m) = false → exec .gf2mulGHT s = .next { s with status := 5 })) ∧
  (∀ (k : Nat) (c : CodeInstance), 1 ≤ k → buildCode k = some c →
    (c.g.bits.map fun row => vecMul row c.h.transpose).flatten = zeroVec (k * c.m)) ∧
  ∀ (s : State) (c : CodeInstance), s.Inv → s.config.Conforms → s.Ready c →
    exec .gf2mulGHT s = .next { s with dout := .val (zeroVec (c.k * c.m)), status := 0 }

/-- 42_codec.md R117: the syndrome value is the XOR of the 1-indexed positions of the word's ones. -/
def Obligations.SyndromeIsXorOfPositions : Prop :=
  ∀ (k : Nat) (c : CodeInstance) (w : BitVector), 1 ≤ k → buildCode k = some c → w.length = c.n →
    uint (vecMul w c.h.transpose) =
      ((List.range c.n).filter fun i => w.getD i false).foldl (fun x i => x ^^^ (i + 1)) 0

/-- 42_codec.md R118: codewords have the zero syndrome, the syndrome is linear, and so the syndrome of
a codeword with an error pattern is that of the pattern. -/
def Obligations.SyndromeIsLinear : Prop :=
  ∀ (k : Nat) (c : CodeInstance), 1 ≤ k → buildCode k = some c →
    (∀ s : BitVector, s.length = k → vecMul (vecMul s c.g) c.h.transpose = zeroVec c.m) ∧
    (∀ w e : BitVector, w.length = c.n → e.length = c.n →
      vecMul (gfAdd w e) c.h.transpose =
        gfAdd (vecMul w c.h.transpose) (vecMul e c.h.transpose)) ∧
    ∀ s e : BitVector, s.length = k → e.length = c.n →
      vecMul (gfAdd (vecMul s c.g) e) c.h.transpose = vecMul e c.h.transpose

/-- 42_codec.md R119: decoding a codeword gives its source word and a clean outcome. -/
def Obligations.DecodeOfEncode : Prop :=
  ∀ (s : State) (k : Nat) (c : CodeInstance) (word : BitVector),
    1 ≤ k → buildCode k = some c → s.Ready c → word.length = k →
    exec (.decode (vecMul word c.g)) s = .next { s with
      dout := .val word, syn := .val (zeroVec c.m), synval := .val 0, errdet := .val false,
      outcome := .val 0, dvalid := .val true, status := 0 }

/-- 42_codec.md R120: every single-bit error in a codeword is located and corrected. -/
def Obligations.SingleErrorCorrected : Prop :=
  ∀ (s : State) (k : Nat) (c : CodeInstance) (word : BitVector) (p : Nat),
    1 ≤ k → buildCode k = some c → s.Ready c → word.length = k → p < c.n →
    exec (.decode (gfAdd (vecMul word c.g) (unitVec c.n p))) s = .next { s with
      dout := .val word, syn := .val (vec c.m (p + 1)), synval := .val (p + 1),
      errdet := .val true, outcome := .val 1, dvalid := .val true, status := 0 }

/-- 42_codec.md R121: the exact behaviour on multi-bit patterns: the syndrome value is the XOR of the
1-indexed error positions; a double error is uncorrectable above N and else miscorrected at a third
place, which leaves three wrong bits; the errors 0, 1 and 2 together pass as CLEAN with a wrong
word. -/
def Obligations.MultiBitErrors : Prop :=
  ∀ (s : State) (k : Nat) (c : CodeInstance) (word : BitVector),
    1 ≤ k → buildCode k = some c → s.Ready c → word.length = k →
    (∀ e : BitVector, e.length = c.n → 2 ≤ popcount e →
      uint (vecMul (gfAdd (vecMul word c.g) e) c.h.transpose) =
        ((List.range c.n).filter fun i => e.getD i false).foldl (fun x i => x ^^^ (i + 1)) 0) ∧
    (∀ p q v : Nat, p < q → q < c.n → v = (p + 1) ^^^ (q + 1) → ∃ t,
      exec (.decode (gfAdd (gfAdd (vecMul word c.g) (unitVec c.n p)) (unitVec c.n q))) s = .next t ∧
      t.status = 0 ∧ t.synval = .val v ∧ v ≠ 0 ∧
      (c.n < v → t.outcome = .val 2) ∧
      (v ≤ c.n → t.outcome = .val 1 ∧ v - 1 ≠ p ∧ v - 1 ≠ q ∧
        popcount (gfAdd (correctedWord c
          (gfAdd (gfAdd (vecMul word c.g) (unitVec c.n p)) (unitVec c.n q)) v)
          (vecMul word c.g)) = 3)) ∧
    ∃ t w, exec (.decode (gfAdd (gfAdd (gfAdd (vecMul word c.g) (unitVec c.n 0)) (unitVec c.n 1))
        (unitVec c.n 2))) s = .next t ∧
      t.outcome = .val 0 ∧ t.dout = .val w ∧ w ≠ word

/-- 42_codec.md R122: OUTCOME 2 comes only from syndrome values in `(N, 2^M - 1]`, and never when
`N = 2^M - 1`, which is when `K = 2^M - M - 1`. -/
def Obligations.UncorrectableOnlyAboveN : Prop :=
  ∀ (s t : State) (k : Nat) (c : CodeInstance) (da : BitVector),
    1 ≤ k → buildCode k = some c → s.Ready c →
    (c.n = 2 ^ c.m - 1 ↔ c.k = 2 ^ c.m - c.m - 1) ∧
    (da.length = c.n → exec (.decode da) s = .next t → t.outcome = .val 2 →
      c.n ≠ 2 ^ c.m - 1 ∧ ∃ v, t.synval = .val v ∧ c.n < v ∧ v ≤ 2 ^ c.m - 1) ∧
    (da.length = c.m → exec (.locate da) s = .next t → t.outcome = .val 2 →
      c.n ≠ 2 ^ c.m - 1 ∧ ∃ v, t.synval = .val v ∧ c.n < v ∧ v ≤ 2 ^ c.m - 1)

/-- 42_codec.md R123: where a codeword holds its source digits and its parity digits, and what the
extraction reads. -/
def Obligations.CodewordLayout : Prop :=
  ∀ (k : Nat) (c : CodeInstance) (s : BitVector), 1 ≤ k → buildCode k = some c → s.length = k →
    (∀ r < k, (vecMul s c.g).getD (infoNumber c.n r - 1) false = s.getD r false) ∧
    (∀ i < c.m, (vecMul s c.g).getD (2 ^ i - 1) false =
      ((List.range k).filter fun r => (infoNumber c.n r).testBit i).foldl
        (fun x r => x ^^ s.getD r false) false) ∧
    ((List.range c.n).filter fun i => c.mask.getD i false) =
      (List.range k).map fun r => infoNumber c.n r - 1

/-! ## Inspect -/

/-- 43_inspect.md R130. -/
def Obligations.InspectHcolReads : Prop :=
  (∀ p : Ports, decode 0x000C p = .ok (.inspectHcol p.arg)) ∧
  (∀ (s : State) (c : CodeInstance) (j : Nat), s.Ready c →
    (j < c.n → exec (.inspectHcol j) s = .next { s with dout := .val (c.h.col j), status := 0 }) ∧
    (c.n ≤ j → exec (.inspectHcol j) s = .next { s with status := 5 })) ∧
  ∀ (k : Nat) (c : CodeInstance), 1 ≤ k → buildCode k = some c → ∀ j < c.n,
    c.h.col j = vec c.m (j + 1)

/-- 43_inspect.md R131. -/
def Obligations.InspectGcolReads : Prop :=
  (∀ p : Ports, decode 0x001C p = .ok (.inspectGcol p.arg)) ∧
  (∀ (s : State) (c : CodeInstance) (j : Nat), s.Ready c →
    (j < c.n → exec (.inspectGcol j) s = .next { s with dout := .val (c.g.col j), status := 0 }) ∧
    (c.n ≤ j → exec (.inspectGcol j) s = .next { s with status := 5 })) ∧
  ∀ (k : Nat) (c : CodeInstance), 1 ≤ k → buildCode k = some c →
    (∀ r < k, c.g.col (infoNumber c.n r - 1) = unitVec k r) ∧
    ∀ i < c.m, c.g.col (2 ^ i - 1) =
      (standardGenerator (systemize c.h).2 k).col (c.m - 1 - i)

/-- 43_inspect.md R132. -/
def Obligations.InspectGrowReads : Prop :=
  (∀ p : Ports, decode 0x002C p = .ok (.inspectGrow p.arg)) ∧
  (∀ (s : State) (c : CodeInstance) (r : Nat), s.Ready c →
    (r < c.k → exec (.inspectGrow r) s = .next { s with dout := .val (c.g.row r), status := 0 }) ∧
    (c.k ≤ r → exec (.inspectGrow r) s = .next { s with status := 5 })) ∧
  ∀ (k : Nat) (c : CodeInstance), 1 ≤ k → buildCode k = some c → ∀ r < k,
    c.g.row r = vecMul (unitVec k r) c.g ∧ (c.g.row r).length = c.n ∧ 3 ≤ popcount (c.g.row r)

/-- 43_inspect.md R133. -/
def Obligations.InspectHrowReads : Prop :=
  (∀ p : Ports, decode 0x003C p = .ok (.inspectHrow p.arg)) ∧
  (∀ (s : State) (c : CodeInstance) (i : Nat), s.Ready c →
    (i < c.m → exec (.inspectHrow i) s = .next { s with dout := .val (c.h.row i), status := 0 }) ∧
    (c.m ≤ i → exec (.inspectHrow i) s = .next { s with status := 5 })) ∧
  ∀ (k : Nat) (c : CodeInstance), 1 ≤ k → buildCode k = some c → ∀ i < c.m,
    c.h.row i = (List.range c.n).map fun j => (j + 1).testBit (c.m - 1 - i)

/-- 43_inspect.md R134. -/
def Obligations.InspectMaskReads : Prop :=
  (∀ p : Ports, decode 0x004C p = .ok .inspectMask) ∧
  (∀ (s : State) (c : CodeInstance), s.Ready c →
    exec .inspectMask s = .next { s with dout := .val c.mask, status := 0 }) ∧
  ∀ (k : Nat) (c : CodeInstance), 1 ≤ k → buildCode k = some c →
    popcount c.mask = k ∧ c.mask.length = c.n ∧
    ∀ j < c.n, (c.mask.getD j false = false ↔ ∃ i, j = 2 ^ i - 1)
end

