-- ==== Sys2Proof/Laws/Gf2.lean ====
section
/-! SUPPORT. The small lemmas of the notation: lengths, elements and entries of every vector and
matrix operation, so that no later proof unfolds them. -/

namespace Sys2Proof

/-! ### Lengths -/

@[simp] theorem length_vec (w x : Nat) : (vec w x).length = w := by simp [vec]

@[simp] theorem length_unitVec (len p : Nat) : (unitVec len p).length = len := by simp [unitVec]

@[simp] theorem length_zeroVec (len : Nat) : (zeroVec len).length = len := by simp [zeroVec]

@[simp] theorem length_vecMul (v : BitVector) (b : BitMatrix) : (vecMul v b).length = b.cols := by
  simp [vecMul]

@[simp] theorem length_gfAdd (u v : BitVector) :
    (gfAdd u v).length = min u.length v.length := by simp [gfAdd]

/-! ### Elements -/

/-- `fix(a + b) = a XOR b` (00_scope.md R6). -/
theorem fix_add (a b : Bool) : fix (a.toNat + b.toNat) = (a ^^ b) := by cases a <;> cases b <;> rfl

theorem gfAdd_eq_xor (u v : BitVector) : gfAdd u v = List.zipWith Bool.xor u v := by
  simp only [gfAdd, fix_add]

/-- An element of a vector built over a range. -/
theorem getD_map_range (f : Nat → Bool) {n i : Nat} (h : i < n) :
    ((List.range n).map f).getD i false = f i := by
  simp [List.getD_eq_getElem?_getD, h]

theorem getD_vec {w i : Nat} (h : i < w) (x : Nat) :
    (vec w x).getD i false = (x / 2 ^ (w - 1 - i) % 2 == 1) := getD_map_range _ h

/-- Element i of `vec_w(x)` is the bit of weight `2^(w-1-i)`. -/
theorem getD_vec_testBit {w i : Nat} (h : i < w) (x : Nat) :
    (vec w x).getD i false = x.testBit (w - 1 - i) := by
  rw [getD_vec h, Nat.testBit_eq_decide_div_mod_eq]; rfl

theorem getD_unitVec {len i : Nat} (h : i < len) (p : Nat) :
    (unitVec len p).getD i false = (i == p) := getD_map_range _ h

theorem getD_vecMul (v : BitVector) {b : BitMatrix} {j : Nat} (h : j < b.cols) :
    (vecMul v b).getD j false = fix (dotCol v b j) := getD_map_range _ h

theorem getD_gfAdd {u v : BitVector} (h : u.length = v.length) (i : Nat) :
    (gfAdd u v).getD i false = (u.getD i false ^^ v.getD i false) := by
  rw [gfAdd_eq_xor]
  simp only [List.getD_eq_getElem?_getD, List.getElem?_zipWith]
  rcases Nat.lt_or_ge i u.length with hi | hi
  · simp [hi, h ▸ hi]
  · simp [hi, h ▸ hi]

/-- Adding a unit vector inverts one bit and leaves the others (40_bitvector.md R83). -/
theorem gfAdd_unitVec {v : BitVector} {p : Nat} (h : p < v.length) :
    gfAdd v (unitVec v.length p) = v.set p (!v.getD p false) := by
  apply List.ext_getElem
  · simp
  intro i h1 h2
  have hi : i < v.length := by simpa using h2
  have hx := getD_gfAdd (u := v) (v := unitVec v.length p) (by simp) i
  rw [getD_unitVec hi] at hx
  simp only [List.getD_eq_getElem?_getD, List.getElem?_eq_getElem h1, List.getElem?_eq_getElem hi,
    Option.getD_some] at hx
  rw [hx, List.getElem_set]
  by_cases hp : p = i
  · subst hp; simp [List.getD_eq_getElem?_getD, h]
  · have hb : (i == p) = false := by simp [Ne.symm hp]
    simp [hp, hb]

/-! ### uint -/

@[simp] theorem uint_nil : uint [] = 0 := rfl

theorem uint_cons (b : Bool) (v : BitVector) :
    uint (b :: v) = b.toNat * 2 ^ v.length + uint v := rfl

/-- `uint(v) < 2^len(v)` (00_scope.md R3). -/
theorem uint_lt (v : BitVector) : uint v < 2 ^ v.length := by
  induction v with
  | nil => decide
  | cons b v ih => rw [uint_cons, List.length_cons, Nat.pow_succ]; cases b <;> simp <;> omega

/-! ### Matrices -/

@[simp] theorem rows_ofFn (r c : Nat) (f : Nat → Nat → Bool) : (BitMatrix.ofFn r c f).rows = r := rfl
@[simp] theorem cols_ofFn (r c : Nat) (f : Nat → Nat → Bool) : (BitMatrix.ofFn r c f).cols = c := rfl
@[simp] theorem rows_transpose (a : BitMatrix) : a.transpose.rows = a.cols := rfl
@[simp] theorem cols_transpose (a : BitMatrix) : a.transpose.cols = a.rows := rfl
@[simp] theorem rows_identity (r : Nat) : (BitMatrix.identity r).rows = r := rfl
@[simp] theorem cols_identity (r : Nat) : (BitMatrix.identity r).cols = r := rfl
@[simp] theorem rows_hcat (a b : BitMatrix) : (a.hcat b).rows = a.rows := rfl
@[simp] theorem cols_hcat (a b : BitMatrix) : (a.hcat b).cols = a.cols + b.cols := rfl
@[simp] theorem rows_ofCols (r : Nat) (cs : List BitVector) : (BitMatrix.ofCols r cs).rows = r := rfl
@[simp] theorem cols_ofCols (r : Nat) (cs : List BitVector) :
    (BitMatrix.ofCols r cs).cols = cs.length := rfl
@[simp] theorem rows_setCol (a : BitMatrix) (j : Nat) (v : BitVector) :
    (a.setCol j v).rows = a.rows := rfl
@[simp] theorem cols_setCol (a : BitMatrix) (j : Nat) (v : BitVector) :
    (a.setCol j v).cols = a.cols := rfl

@[simp] theorem entry_ofFn {r c i j : Nat} (f : Nat → Nat → Bool) (hi : i < r) (hj : j < c) :
    (BitMatrix.ofFn r c f).entry i j = f i j := by
  simp [BitMatrix.entry, BitMatrix.ofFn, List.getD_eq_getElem?_getD, hi, hj]

theorem entry_identity {r i j : Nat} (hi : i < r) (hj : j < r) :
    (BitMatrix.identity r).entry i j = (i == j) := entry_ofFn _ hi hj

theorem entry_transpose {a : BitMatrix} {i j : Nat} (hi : i < a.rows) (hj : j < a.cols) :
    a.transpose.entry j i = a.entry i j := entry_ofFn (fun j i => a.entry i j) hj hi

theorem entry_ofCols {r i j : Nat} (cs : List BitVector) (hi : i < r) (hj : j < cs.length) :
    (BitMatrix.ofCols r cs).entry i j = (cs.getD j []).getD i false := by
  simp [BitMatrix.entry, BitMatrix.ofCols, List.getD_eq_getElem?_getD, hi, hj]

/-- An element of a column is the entry of that row (00_scope.md R7). -/
theorem getD_col (a : BitMatrix) (i j : Nat) : (a.col j).getD i false = a.entry i j := by
  simp only [BitMatrix.col, BitMatrix.entry, List.getD_eq_getElem?_getD, List.getElem?_map]
  cases a.bits[i]? <;> simp

theorem length_col (a : BitMatrix) (j : Nat) : (a.col j).length = a.bits.length := by
  simp [BitMatrix.col]

/-! ### Powers of two -/

/-- Bit i of a power of two (00_scope.md R9). -/
theorem bit_two_pow (m i : Nat) : (2 ^ m / 2 ^ i % 2 == 1) = (i == m) := by
  have h : (2 ^ m / 2 ^ i % 2 == 1) = (2 ^ m).testBit i := by
    rw [Nat.testBit_eq_decide_div_mod_eq]; rfl
  rw [h, Nat.testBit_two_pow, Bool.eq_iff_iff, decide_eq_true_iff, beq_iff_eq, eq_comm]

theorem pow2_two_pow (m : Nat) : pow2 (2 ^ m) = true := by
  have hc : bitCount (2 ^ m) = List.count m (List.range (2 ^ m)) := by
    unfold bitCount List.count
    exact List.countP_congr fun i _ => by rw [bit_two_pow]
  have h1 : List.count m (List.range (2 ^ m)) = 1 :=
    List.count_eq_one_of_mem List.nodup_range (List.mem_range.2 Nat.lt_two_pow_self)
  simp [pow2, hc, h1]

end Sys2Proof
end

