-- ==== Sys2Proof/Laws/State.lean ====
section
/-! SUPPORT. For each update of State and each field, what the field holds after the update; and the
code instance after each update. True by rfl, so that no later proof unfolds a record update. -/

namespace Sys2Proof.Machine

variable (s : State)

/-! ### writeStatus -/

@[simp] theorem writeStatus_valid (c : BitVec 3) : (writeStatus c s).valid = s.valid := rfl
@[simp] theorem writeStatus_fault (c : BitVec 3) : (writeStatus c s).fault = s.fault := rfl
@[simp] theorem writeStatus_k (c : BitVec 3) : (writeStatus c s).k = s.k := rfl
@[simp] theorem writeStatus_m (c : BitVec 3) : (writeStatus c s).m = s.m := rfl
@[simp] theorem writeStatus_n (c : BitVec 3) : (writeStatus c s).n = s.n := rfl
@[simp] theorem writeStatus_h (c : BitVec 3) : (writeStatus c s).h = s.h := rfl
@[simp] theorem writeStatus_g (c : BitVec 3) : (writeStatus c s).g = s.g := rfl
@[simp] theorem writeStatus_mask (c : BitVec 3) : (writeStatus c s).mask = s.mask := rfl
@[simp] theorem writeStatus_status (c : BitVec 3) : (writeStatus c s).status = c := rfl
@[simp] theorem writeStatus_dout (c : BitVec 3) : (writeStatus c s).dout = s.dout := rfl
@[simp] theorem writeStatus_syn (c : BitVec 3) : (writeStatus c s).syn = s.syn := rfl
@[simp] theorem writeStatus_synval (c : BitVec 3) : (writeStatus c s).synval = s.synval := rfl
@[simp] theorem writeStatus_errdet (c : BitVec 3) : (writeStatus c s).errdet = s.errdet := rfl
@[simp] theorem writeStatus_outcome (c : BitVec 3) : (writeStatus c s).outcome = s.outcome := rfl
@[simp] theorem writeStatus_dvalid (c : BitVec 3) : (writeStatus c s).dvalid = s.dvalid := rfl
@[simp] theorem writeStatus_rval (c : BitVec 3) : (writeStatus c s).rval = s.rval := rfl
@[simp] theorem writeStatus_config (c : BitVec 3) : (writeStatus c s).config = s.config := rfl
@[simp] theorem writeStatus_pending (c : BitVec 3) : (writeStatus c s).pending = s.pending := rfl
@[simp] theorem writeStatus_observed (c : BitVec 3) : (writeStatus c s).observed = s.observed := rfl
@[simp] theorem writeStatus_modelFaults (c : BitVec 3) : (writeStatus c s).modelFaults = s.modelFaults := rfl
@[simp] theorem writeStatus_code (c : BitVec 3) : (writeStatus c s).code = s.code := rfl

/-! ### complete -/

@[simp] theorem complete_valid : (complete s).valid = s.valid := rfl
@[simp] theorem complete_fault : (complete s).fault = s.fault := rfl
@[simp] theorem complete_k : (complete s).k = s.k := rfl
@[simp] theorem complete_m : (complete s).m = s.m := rfl
@[simp] theorem complete_n : (complete s).n = s.n := rfl
@[simp] theorem complete_h : (complete s).h = s.h := rfl
@[simp] theorem complete_g : (complete s).g = s.g := rfl
@[simp] theorem complete_mask : (complete s).mask = s.mask := rfl
@[simp] theorem complete_status : (complete s).status = 0 := rfl
@[simp] theorem complete_dout : (complete s).dout = s.dout := rfl
@[simp] theorem complete_syn : (complete s).syn = s.syn := rfl
@[simp] theorem complete_synval : (complete s).synval = s.synval := rfl
@[simp] theorem complete_errdet : (complete s).errdet = s.errdet := rfl
@[simp] theorem complete_outcome : (complete s).outcome = s.outcome := rfl
@[simp] theorem complete_dvalid : (complete s).dvalid = s.dvalid := rfl
@[simp] theorem complete_rval : (complete s).rval = s.rval := rfl
@[simp] theorem complete_config : (complete s).config = s.config := rfl
@[simp] theorem complete_pending : (complete s).pending = s.pending := rfl
@[simp] theorem complete_observed : (complete s).observed = s.observed := rfl
@[simp] theorem complete_modelFaults : (complete s).modelFaults = s.modelFaults := rfl
@[simp] theorem complete_code : (complete s).code = s.code := rfl

/-! ### writeDout -/

@[simp] theorem writeDout_valid (v : BitVector) : (writeDout v s).valid = s.valid := rfl
@[simp] theorem writeDout_fault (v : BitVector) : (writeDout v s).fault = s.fault := rfl
@[simp] theorem writeDout_k (v : BitVector) : (writeDout v s).k = s.k := rfl
@[simp] theorem writeDout_m (v : BitVector) : (writeDout v s).m = s.m := rfl
@[simp] theorem writeDout_n (v : BitVector) : (writeDout v s).n = s.n := rfl
@[simp] theorem writeDout_h (v : BitVector) : (writeDout v s).h = s.h := rfl
@[simp] theorem writeDout_g (v : BitVector) : (writeDout v s).g = s.g := rfl
@[simp] theorem writeDout_mask (v : BitVector) : (writeDout v s).mask = s.mask := rfl
@[simp] theorem writeDout_status (v : BitVector) : (writeDout v s).status = s.status := rfl
@[simp] theorem writeDout_dout (v : BitVector) : (writeDout v s).dout = .val v := rfl
@[simp] theorem writeDout_syn (v : BitVector) : (writeDout v s).syn = s.syn := rfl
@[simp] theorem writeDout_synval (v : BitVector) : (writeDout v s).synval = s.synval := rfl
@[simp] theorem writeDout_errdet (v : BitVector) : (writeDout v s).errdet = s.errdet := rfl
@[simp] theorem writeDout_outcome (v : BitVector) : (writeDout v s).outcome = s.outcome := rfl
@[simp] theorem writeDout_dvalid (v : BitVector) : (writeDout v s).dvalid = s.dvalid := rfl
@[simp] theorem writeDout_rval (v : BitVector) : (writeDout v s).rval = s.rval := rfl
@[simp] theorem writeDout_config (v : BitVector) : (writeDout v s).config = s.config := rfl
@[simp] theorem writeDout_pending (v : BitVector) : (writeDout v s).pending = s.pending := rfl
@[simp] theorem writeDout_observed (v : BitVector) : (writeDout v s).observed = s.observed := rfl
@[simp] theorem writeDout_modelFaults (v : BitVector) : (writeDout v s).modelFaults = s.modelFaults := rfl
@[simp] theorem writeDout_code (v : BitVector) : (writeDout v s).code = s.code := rfl

/-! ### writeSyn -/

@[simp] theorem writeSyn_valid (v : BitVector) : (writeSyn v s).valid = s.valid := rfl
@[simp] theorem writeSyn_fault (v : BitVector) : (writeSyn v s).fault = s.fault := rfl
@[simp] theorem writeSyn_k (v : BitVector) : (writeSyn v s).k = s.k := rfl
@[simp] theorem writeSyn_m (v : BitVector) : (writeSyn v s).m = s.m := rfl
@[simp] theorem writeSyn_n (v : BitVector) : (writeSyn v s).n = s.n := rfl
@[simp] theorem writeSyn_h (v : BitVector) : (writeSyn v s).h = s.h := rfl
@[simp] theorem writeSyn_g (v : BitVector) : (writeSyn v s).g = s.g := rfl
@[simp] theorem writeSyn_mask (v : BitVector) : (writeSyn v s).mask = s.mask := rfl
@[simp] theorem writeSyn_status (v : BitVector) : (writeSyn v s).status = s.status := rfl
@[simp] theorem writeSyn_dout (v : BitVector) : (writeSyn v s).dout = s.dout := rfl
@[simp] theorem writeSyn_syn (v : BitVector) : (writeSyn v s).syn = .val v := rfl
@[simp] theorem writeSyn_synval (v : BitVector) : (writeSyn v s).synval = s.synval := rfl
@[simp] theorem writeSyn_errdet (v : BitVector) : (writeSyn v s).errdet = s.errdet := rfl
@[simp] theorem writeSyn_outcome (v : BitVector) : (writeSyn v s).outcome = s.outcome := rfl
@[simp] theorem writeSyn_dvalid (v : BitVector) : (writeSyn v s).dvalid = s.dvalid := rfl
@[simp] theorem writeSyn_rval (v : BitVector) : (writeSyn v s).rval = s.rval := rfl
@[simp] theorem writeSyn_config (v : BitVector) : (writeSyn v s).config = s.config := rfl
@[simp] theorem writeSyn_pending (v : BitVector) : (writeSyn v s).pending = s.pending := rfl
@[simp] theorem writeSyn_observed (v : BitVector) : (writeSyn v s).observed = s.observed := rfl
@[simp] theorem writeSyn_modelFaults (v : BitVector) : (writeSyn v s).modelFaults = s.modelFaults := rfl
@[simp] theorem writeSyn_code (v : BitVector) : (writeSyn v s).code = s.code := rfl

/-! ### writeSynval -/

@[simp] theorem writeSynval_valid (x : Nat) : (writeSynval x s).valid = s.valid := rfl
@[simp] theorem writeSynval_fault (x : Nat) : (writeSynval x s).fault = s.fault := rfl
@[simp] theorem writeSynval_k (x : Nat) : (writeSynval x s).k = s.k := rfl
@[simp] theorem writeSynval_m (x : Nat) : (writeSynval x s).m = s.m := rfl
@[simp] theorem writeSynval_n (x : Nat) : (writeSynval x s).n = s.n := rfl
@[simp] theorem writeSynval_h (x : Nat) : (writeSynval x s).h = s.h := rfl
@[simp] theorem writeSynval_g (x : Nat) : (writeSynval x s).g = s.g := rfl
@[simp] theorem writeSynval_mask (x : Nat) : (writeSynval x s).mask = s.mask := rfl
@[simp] theorem writeSynval_status (x : Nat) : (writeSynval x s).status = s.status := rfl
@[simp] theorem writeSynval_dout (x : Nat) : (writeSynval x s).dout = s.dout := rfl
@[simp] theorem writeSynval_syn (x : Nat) : (writeSynval x s).syn = s.syn := rfl
@[simp] theorem writeSynval_synval (x : Nat) : (writeSynval x s).synval = .val x := rfl
@[simp] theorem writeSynval_errdet (x : Nat) : (writeSynval x s).errdet = s.errdet := rfl
@[simp] theorem writeSynval_outcome (x : Nat) : (writeSynval x s).outcome = s.outcome := rfl
@[simp] theorem writeSynval_dvalid (x : Nat) : (writeSynval x s).dvalid = s.dvalid := rfl
@[simp] theorem writeSynval_rval (x : Nat) : (writeSynval x s).rval = s.rval := rfl
@[simp] theorem writeSynval_config (x : Nat) : (writeSynval x s).config = s.config := rfl
@[simp] theorem writeSynval_pending (x : Nat) : (writeSynval x s).pending = s.pending := rfl
@[simp] theorem writeSynval_observed (x : Nat) : (writeSynval x s).observed = s.observed := rfl
@[simp] theorem writeSynval_modelFaults (x : Nat) : (writeSynval x s).modelFaults = s.modelFaults := rfl
@[simp] theorem writeSynval_code (x : Nat) : (writeSynval x s).code = s.code := rfl

/-! ### writeFlags -/

@[simp] theorem writeFlags_valid (v w : Nat) : (writeFlags v w s).valid = s.valid := rfl
@[simp] theorem writeFlags_fault (v w : Nat) : (writeFlags v w s).fault = s.fault := rfl
@[simp] theorem writeFlags_k (v w : Nat) : (writeFlags v w s).k = s.k := rfl
@[simp] theorem writeFlags_m (v w : Nat) : (writeFlags v w s).m = s.m := rfl
@[simp] theorem writeFlags_n (v w : Nat) : (writeFlags v w s).n = s.n := rfl
@[simp] theorem writeFlags_h (v w : Nat) : (writeFlags v w s).h = s.h := rfl
@[simp] theorem writeFlags_g (v w : Nat) : (writeFlags v w s).g = s.g := rfl
@[simp] theorem writeFlags_mask (v w : Nat) : (writeFlags v w s).mask = s.mask := rfl
@[simp] theorem writeFlags_status (v w : Nat) : (writeFlags v w s).status = s.status := rfl
@[simp] theorem writeFlags_dout (v w : Nat) : (writeFlags v w s).dout = s.dout := rfl
@[simp] theorem writeFlags_syn (v w : Nat) : (writeFlags v w s).syn = s.syn := rfl
@[simp] theorem writeFlags_synval (v w : Nat) : (writeFlags v w s).synval = s.synval := rfl
@[simp] theorem writeFlags_errdet (v w : Nat) : (writeFlags v w s).errdet = .val (errdetOf v) := rfl
@[simp] theorem writeFlags_outcome (v w : Nat) : (writeFlags v w s).outcome = .val (outcomeOf v w) := rfl
@[simp] theorem writeFlags_dvalid (v w : Nat) : (writeFlags v w s).dvalid = s.dvalid := rfl
@[simp] theorem writeFlags_rval (v w : Nat) : (writeFlags v w s).rval = s.rval := rfl
@[simp] theorem writeFlags_config (v w : Nat) : (writeFlags v w s).config = s.config := rfl
@[simp] theorem writeFlags_pending (v w : Nat) : (writeFlags v w s).pending = s.pending := rfl
@[simp] theorem writeFlags_observed (v w : Nat) : (writeFlags v w s).observed = s.observed := rfl
@[simp] theorem writeFlags_modelFaults (v w : Nat) : (writeFlags v w s).modelFaults = s.modelFaults := rfl
@[simp] theorem writeFlags_code (v w : Nat) : (writeFlags v w s).code = s.code := rfl

/-! ### writeDvalid -/

@[simp] theorem writeDvalid_valid (b : Bool) : (writeDvalid b s).valid = s.valid := rfl
@[simp] theorem writeDvalid_fault (b : Bool) : (writeDvalid b s).fault = s.fault := rfl
@[simp] theorem writeDvalid_k (b : Bool) : (writeDvalid b s).k = s.k := rfl
@[simp] theorem writeDvalid_m (b : Bool) : (writeDvalid b s).m = s.m := rfl
@[simp] theorem writeDvalid_n (b : Bool) : (writeDvalid b s).n = s.n := rfl
@[simp] theorem writeDvalid_h (b : Bool) : (writeDvalid b s).h = s.h := rfl
@[simp] theorem writeDvalid_g (b : Bool) : (writeDvalid b s).g = s.g := rfl
@[simp] theorem writeDvalid_mask (b : Bool) : (writeDvalid b s).mask = s.mask := rfl
@[simp] theorem writeDvalid_status (b : Bool) : (writeDvalid b s).status = s.status := rfl
@[simp] theorem writeDvalid_dout (b : Bool) : (writeDvalid b s).dout = s.dout := rfl
@[simp] theorem writeDvalid_syn (b : Bool) : (writeDvalid b s).syn = s.syn := rfl
@[simp] theorem writeDvalid_synval (b : Bool) : (writeDvalid b s).synval = s.synval := rfl
@[simp] theorem writeDvalid_errdet (b : Bool) : (writeDvalid b s).errdet = s.errdet := rfl
@[simp] theorem writeDvalid_outcome (b : Bool) : (writeDvalid b s).outcome = s.outcome := rfl
@[simp] theorem writeDvalid_dvalid (b : Bool) : (writeDvalid b s).dvalid = .val b := rfl
@[simp] theorem writeDvalid_rval (b : Bool) : (writeDvalid b s).rval = s.rval := rfl
@[simp] theorem writeDvalid_config (b : Bool) : (writeDvalid b s).config = s.config := rfl
@[simp] theorem writeDvalid_pending (b : Bool) : (writeDvalid b s).pending = s.pending := rfl
@[simp] theorem writeDvalid_observed (b : Bool) : (writeDvalid b s).observed = s.observed := rfl
@[simp] theorem writeDvalid_modelFaults (b : Bool) : (writeDvalid b s).modelFaults = s.modelFaults := rfl
@[simp] theorem writeDvalid_code (b : Bool) : (writeDvalid b s).code = s.code := rfl

/-! ### writeRval -/

@[simp] theorem writeRval_valid (x : Nat) : (writeRval x s).valid = s.valid := rfl
@[simp] theorem writeRval_fault (x : Nat) : (writeRval x s).fault = s.fault := rfl
@[simp] theorem writeRval_k (x : Nat) : (writeRval x s).k = s.k := rfl
@[simp] theorem writeRval_m (x : Nat) : (writeRval x s).m = s.m := rfl
@[simp] theorem writeRval_n (x : Nat) : (writeRval x s).n = s.n := rfl
@[simp] theorem writeRval_h (x : Nat) : (writeRval x s).h = s.h := rfl
@[simp] theorem writeRval_g (x : Nat) : (writeRval x s).g = s.g := rfl
@[simp] theorem writeRval_mask (x : Nat) : (writeRval x s).mask = s.mask := rfl
@[simp] theorem writeRval_status (x : Nat) : (writeRval x s).status = s.status := rfl
@[simp] theorem writeRval_dout (x : Nat) : (writeRval x s).dout = s.dout := rfl
@[simp] theorem writeRval_syn (x : Nat) : (writeRval x s).syn = s.syn := rfl
@[simp] theorem writeRval_synval (x : Nat) : (writeRval x s).synval = s.synval := rfl
@[simp] theorem writeRval_errdet (x : Nat) : (writeRval x s).errdet = s.errdet := rfl
@[simp] theorem writeRval_outcome (x : Nat) : (writeRval x s).outcome = s.outcome := rfl
@[simp] theorem writeRval_dvalid (x : Nat) : (writeRval x s).dvalid = s.dvalid := rfl
@[simp] theorem writeRval_rval (x : Nat) : (writeRval x s).rval = .val x := rfl
@[simp] theorem writeRval_config (x : Nat) : (writeRval x s).config = s.config := rfl
@[simp] theorem writeRval_pending (x : Nat) : (writeRval x s).pending = s.pending := rfl
@[simp] theorem writeRval_observed (x : Nat) : (writeRval x s).observed = s.observed := rfl
@[simp] theorem writeRval_modelFaults (x : Nat) : (writeRval x s).modelFaults = s.modelFaults := rfl
@[simp] theorem writeRval_code (x : Nat) : (writeRval x s).code = s.code := rfl

/-! ### commitCode -/

@[simp] theorem commitCode_valid (c : CodeInstance) : (commitCode c s).valid = true := rfl
@[simp] theorem commitCode_fault (c : CodeInstance) : (commitCode c s).fault = s.fault := rfl
@[simp] theorem commitCode_k (c : CodeInstance) : (commitCode c s).k = .val c.k := rfl
@[simp] theorem commitCode_m (c : CodeInstance) : (commitCode c s).m = .val c.m := rfl
@[simp] theorem commitCode_n (c : CodeInstance) : (commitCode c s).n = .val c.n := rfl
@[simp] theorem commitCode_h (c : CodeInstance) : (commitCode c s).h = .val c.h := rfl
@[simp] theorem commitCode_g (c : CodeInstance) : (commitCode c s).g = .val c.g := rfl
@[simp] theorem commitCode_mask (c : CodeInstance) : (commitCode c s).mask = .val c.mask := rfl
@[simp] theorem commitCode_status (c : CodeInstance) : (commitCode c s).status = s.status := rfl
@[simp] theorem commitCode_dout (c : CodeInstance) : (commitCode c s).dout = s.dout := rfl
@[simp] theorem commitCode_syn (c : CodeInstance) : (commitCode c s).syn = s.syn := rfl
@[simp] theorem commitCode_synval (c : CodeInstance) : (commitCode c s).synval = s.synval := rfl
@[simp] theorem commitCode_errdet (c : CodeInstance) : (commitCode c s).errdet = s.errdet := rfl
@[simp] theorem commitCode_outcome (c : CodeInstance) : (commitCode c s).outcome = s.outcome := rfl
@[simp] theorem commitCode_dvalid (c : CodeInstance) : (commitCode c s).dvalid = s.dvalid := rfl
@[simp] theorem commitCode_rval (c : CodeInstance) : (commitCode c s).rval = s.rval := rfl
@[simp] theorem commitCode_config (c : CodeInstance) : (commitCode c s).config = s.config := rfl
@[simp] theorem commitCode_pending (c : CodeInstance) : (commitCode c s).pending = s.pending := rfl
@[simp] theorem commitCode_observed (c : CodeInstance) : (commitCode c s).observed = s.observed := rfl
@[simp] theorem commitCode_modelFaults (c : CodeInstance) : (commitCode c s).modelFaults = s.modelFaults := rfl
@[simp] theorem commitCode_code (c : CodeInstance) : (commitCode c s).code = some c := rfl

/-! ### destroyCode -/

@[simp] theorem destroyCode_valid : (destroyCode s).valid = false := rfl
@[simp] theorem destroyCode_fault : (destroyCode s).fault = true := rfl
@[simp] theorem destroyCode_k : (destroyCode s).k = .undef := rfl
@[simp] theorem destroyCode_m : (destroyCode s).m = .undef := rfl
@[simp] theorem destroyCode_n : (destroyCode s).n = .undef := rfl
@[simp] theorem destroyCode_h : (destroyCode s).h = .undef := rfl
@[simp] theorem destroyCode_g : (destroyCode s).g = .undef := rfl
@[simp] theorem destroyCode_mask : (destroyCode s).mask = .undef := rfl
@[simp] theorem destroyCode_status : (destroyCode s).status = s.status := rfl
@[simp] theorem destroyCode_dout : (destroyCode s).dout = s.dout := rfl
@[simp] theorem destroyCode_syn : (destroyCode s).syn = s.syn := rfl
@[simp] theorem destroyCode_synval : (destroyCode s).synval = s.synval := rfl
@[simp] theorem destroyCode_errdet : (destroyCode s).errdet = s.errdet := rfl
@[simp] theorem destroyCode_outcome : (destroyCode s).outcome = s.outcome := rfl
@[simp] theorem destroyCode_dvalid : (destroyCode s).dvalid = s.dvalid := rfl
@[simp] theorem destroyCode_rval : (destroyCode s).rval = s.rval := rfl
@[simp] theorem destroyCode_config : (destroyCode s).config = s.config := rfl
@[simp] theorem destroyCode_pending : (destroyCode s).pending = s.pending := rfl
@[simp] theorem destroyCode_observed : (destroyCode s).observed = s.observed := rfl
@[simp] theorem destroyCode_modelFaults : (destroyCode s).modelFaults = s.modelFaults := rfl
@[simp] theorem destroyCode_code : (destroyCode s).code = none := rfl

/-! ### observe -/

@[simp] theorem observe_valid (o : Observation) : (observe o s).valid = s.valid := rfl
@[simp] theorem observe_fault (o : Observation) : (observe o s).fault = s.fault := rfl
@[simp] theorem observe_k (o : Observation) : (observe o s).k = s.k := rfl
@[simp] theorem observe_m (o : Observation) : (observe o s).m = s.m := rfl
@[simp] theorem observe_n (o : Observation) : (observe o s).n = s.n := rfl
@[simp] theorem observe_h (o : Observation) : (observe o s).h = s.h := rfl
@[simp] theorem observe_g (o : Observation) : (observe o s).g = s.g := rfl
@[simp] theorem observe_mask (o : Observation) : (observe o s).mask = s.mask := rfl
@[simp] theorem observe_status (o : Observation) : (observe o s).status = s.status := rfl
@[simp] theorem observe_dout (o : Observation) : (observe o s).dout = s.dout := rfl
@[simp] theorem observe_syn (o : Observation) : (observe o s).syn = s.syn := rfl
@[simp] theorem observe_synval (o : Observation) : (observe o s).synval = s.synval := rfl
@[simp] theorem observe_errdet (o : Observation) : (observe o s).errdet = s.errdet := rfl
@[simp] theorem observe_outcome (o : Observation) : (observe o s).outcome = s.outcome := rfl
@[simp] theorem observe_dvalid (o : Observation) : (observe o s).dvalid = s.dvalid := rfl
@[simp] theorem observe_rval (o : Observation) : (observe o s).rval = s.rval := rfl
@[simp] theorem observe_config (o : Observation) : (observe o s).config = s.config := rfl
@[simp] theorem observe_pending (o : Observation) : (observe o s).pending = s.pending := rfl
@[simp] theorem observe_observed (o : Observation) : (observe o s).observed = s.observed ++ [o] := rfl
@[simp] theorem observe_modelFaults (o : Observation) : (observe o s).modelFaults = s.modelFaults := rfl
@[simp] theorem observe_code (o : Observation) : (observe o s).code = s.code := rfl

/-! ### recordFault -/

@[simp] theorem recordFault_valid (f : ModelFault) : (recordFault f s).valid = s.valid := rfl
@[simp] theorem recordFault_fault (f : ModelFault) : (recordFault f s).fault = s.fault := rfl
@[simp] theorem recordFault_k (f : ModelFault) : (recordFault f s).k = s.k := rfl
@[simp] theorem recordFault_m (f : ModelFault) : (recordFault f s).m = s.m := rfl
@[simp] theorem recordFault_n (f : ModelFault) : (recordFault f s).n = s.n := rfl
@[simp] theorem recordFault_h (f : ModelFault) : (recordFault f s).h = s.h := rfl
@[simp] theorem recordFault_g (f : ModelFault) : (recordFault f s).g = s.g := rfl
@[simp] theorem recordFault_mask (f : ModelFault) : (recordFault f s).mask = s.mask := rfl
@[simp] theorem recordFault_status (f : ModelFault) : (recordFault f s).status = s.status := rfl
@[simp] theorem recordFault_dout (f : ModelFault) : (recordFault f s).dout = s.dout := rfl
@[simp] theorem recordFault_syn (f : ModelFault) : (recordFault f s).syn = s.syn := rfl
@[simp] theorem recordFault_synval (f : ModelFault) : (recordFault f s).synval = s.synval := rfl
@[simp] theorem recordFault_errdet (f : ModelFault) : (recordFault f s).errdet = s.errdet := rfl
@[simp] theorem recordFault_outcome (f : ModelFault) : (recordFault f s).outcome = s.outcome := rfl
@[simp] theorem recordFault_dvalid (f : ModelFault) : (recordFault f s).dvalid = s.dvalid := rfl
@[simp] theorem recordFault_rval (f : ModelFault) : (recordFault f s).rval = s.rval := rfl
@[simp] theorem recordFault_config (f : ModelFault) : (recordFault f s).config = s.config := rfl
@[simp] theorem recordFault_pending (f : ModelFault) : (recordFault f s).pending = s.pending := rfl
@[simp] theorem recordFault_observed (f : ModelFault) : (recordFault f s).observed = s.observed := rfl
@[simp] theorem recordFault_modelFaults (f : ModelFault) : (recordFault f s).modelFaults = s.modelFaults ++ [f] := rfl
@[simp] theorem recordFault_code (f : ModelFault) : (recordFault f s).code = s.code := rfl

end Sys2Proof.Machine
end

