-- ==== Sys2Proof/Laws/Ops.lean ====
section
/-! SUPPORT. What each shared operation can do, said once: a raise, the common checks, the code
instance, a host read, a presented command, a step; and the one inversion lemma of exec. -/

namespace Sys2Proof.Machine

variable {s t : State}

/-! ### raise (60_exceptions.md R142, R143) -/

@[simp] theorem raise_constructionError :
    raise .constructionError s = writeStatus 1 (destroyCode s) := rfl

/-- Every other kind writes STATUS only (R142). -/
theorem raise_of_ne {e : Kind} (he : e ≠ .constructionError) :
    raise e s = writeStatus (kindCode e) s := by
  cases e <;> first | rfl | exact absurd rfl he

@[simp] theorem raise_lengthMismatch : raise .lengthMismatch s = writeStatus 2 s := rfl
@[simp] theorem raise_noInstance : raise .noInstance s = writeStatus 3 s := rfl
@[simp] theorem raise_illegalCommand : raise .illegalCommand s = writeStatus 4 s := rfl
@[simp] theorem raise_range : raise .range s = writeStatus 5 s := rfl

/-- No raise touches the parameters, the host's script, what it has read or the model faults. -/
theorem raise_host (e : Kind) :
    (raise e s).config = s.config ∧ (raise e s).pending = s.pending ∧
      (raise e s).observed = s.observed ∧ (raise e s).modelFaults = s.modelFaults := by
  cases e <;> exact ⟨rfl, rfl, rfl, rfl⟩

/-! ### The common checks (R141) -/

theorem checked_of_fault (h : s.fault = true) (body : Result) :
    checked s body = .next (raise .constructionError s) := by simp [checked, h]

theorem checked_of_noFault (h : s.fault = false) (body : Result) : checked s body = body := by
  simp [checked, h]

/-- All `checked` can do when it answers a next state. -/
theorem checked_next {body : Result} (h : checked s body = .next t) :
    (s.fault = true ∧ t = raise .constructionError s) ∨ (s.fault = false ∧ body = .next t) := by
  cases hf : s.fault with
  | true => rw [checked_of_fault hf] at h; cases h; exact .inl ⟨rfl, rfl⟩
  | false => rw [checked_of_noFault hf] at h; exact .inr ⟨rfl, h⟩

theorem withCode_of_fault (h : s.fault = true) (body : CodeInstance → Result) :
    withCode s body = .next (raise .constructionError s) := checked_of_fault h _

theorem withCode_of_noInstance (hf : s.fault = false) (hv : s.valid = false)
    (body : CodeInstance → Result) : withCode s body = .next (raise .noInstance s) := by
  simp [withCode, checked_of_noFault hf, hv]

/-- On a ready block the body runs on the instance the registers hold. -/
theorem withCode_of_ready {c : CodeInstance} (h : s.Ready c) (body : CodeInstance → Result) :
    withCode s body = body c := by
  simp [withCode, checked_of_noFault h.noFault, h.isValid, h.holds]

/-- All `withCode` can do when it answers a next state. -/
theorem withCode_next {body : CodeInstance → Result} (h : withCode s body = .next t) :
    (s.fault = true ∧ t = raise .constructionError s) ∨
      (s.fault = false ∧ s.valid = false ∧ t = raise .noInstance s) ∨
        ∃ c, s.Ready c ∧ body c = .next t := by
  obtain h | ⟨hf, h⟩ := checked_next h
  · exact .inl h
  cases hv : s.valid with
  | false =>
    simp only [hv, Bool.false_eq_true, if_false] at h
    cases h
    exact .inr (.inl ⟨hf, rfl, rfl⟩)
  | true =>
    simp only [hv, if_true] at h
    split at h
    · rename_i c hc
      exact .inr (.inr ⟨c, ⟨hf, hv, hc⟩, h⟩)
    · cases h

/-- With the invariant, VALID = 1 gives an instance. -/
theorem State.Inv.ready (hi : s.Inv) (hf : s.fault = false) (hv : s.valid = true) :
    ∃ k c, 1 ≤ k ∧ s.config.kmax.admits k = true ∧ buildCode k = some c ∧ s.Ready c := by
  obtain ⟨k, c, hk, hm, hb, hc⟩ := hi.built hv
  exact ⟨k, c, hk, hm, hb, hf, hv, hc⟩

/-- What the registers hold when `code` gives an instance. -/
theorem code_eq_some {c : CodeInstance} (h : s.code = some c) :
    s.k = .val c.k ∧ s.m = .val c.m ∧ s.n = .val c.n ∧ s.h = .val c.h ∧ s.g = .val c.g ∧
      s.mask = .val c.mask := by
  unfold State.code at h
  split at h
  · cases h
    exact ⟨by assumption, by assumption, by assumption, by assumption, by assumption, by assumption⟩
  · cases h

/-! ### Flags -/

theorem outcomeOf_toNat_le (v n : Nat) : (outcomeOf v n).toNat ≤ 2 := by
  unfold outcomeOf; split
  · decide
  · split <;> decide

theorem errdetOf_eq (v n : Nat) : errdetOf v = decide (outcomeOf v n ≠ 0) := by
  unfold errdetOf outcomeOf
  by_cases hv : v = 0
  · simp [hv]
  · by_cases hn : v ≤ n <;> simp [hv, hn]

/-! ### exec -/

/-- A completed command that commits no instance: STATUS is OK, only result registers may differ, and
the flags, where written, are those of some syndrome value. -/
def ResultsOnly (s t : State) : Prop :=
  t = { s with
    status := 0, dout := t.dout, syn := t.syn, synval := t.synval, errdet := t.errdet,
    outcome := t.outcome, dvalid := t.dvalid, rval := t.rval } ∧
  ((t.errdet = s.errdet ∧ t.outcome = s.outcome) ∨
    ∃ v n, t.errdet = .val (errdetOf v) ∧ t.outcome = .val (outcomeOf v n))

theorem resultsOnly_dout (v : BitVector) : ResultsOnly s (complete (writeDout v s)) :=
  ⟨rfl, .inl ⟨rfl, rfl⟩⟩

theorem resultsOnly_rval (x : Nat) : ResultsOnly s (complete (writeRval x s)) :=
  ⟨rfl, .inl ⟨rfl, rfl⟩⟩

theorem resultsOnly_syndrome (v : BitVector) (x : Nat) :
    ResultsOnly s (complete (writeSynval x (writeSyn v s))) := ⟨rfl, .inl ⟨rfl, rfl⟩⟩

theorem resultsOnly_decode (syn d : BitVector) (v n : Nat) (b : Bool) :
    ResultsOnly s (complete (writeDout d (writeDvalid b
      (writeFlags v n (writeSynval v (writeSyn syn s)))))) :=
  ⟨by apply State.ext <;> simp, .inr ⟨v, n, by simp, by simp⟩⟩

theorem resultsOnly_locate (v n : Nat) :
    ResultsOnly s (complete (writeFlags v n (writeSynval v s))) := ⟨rfl, .inr ⟨v, n, rfl, rfl⟩⟩

theorem resultsOnly_located (v n x : Nat) :
    ResultsOnly s (complete (writeRval x (writeFlags v n (writeSynval v s)))) :=
  ⟨rfl, .inr ⟨v, n, rfl, rfl⟩⟩

/-- What every command but CONSTRUCT can do when it answers a next state: a raise, or a completed
command that writes result registers only. -/
def RaisesOrResults (s t : State) : Prop :=
  (∃ e, t = raise e s) ∨ (s.fault = false ∧ ResultsOnly s t)

theorem RaisesOrResults.of_checked {body : Result} (h : checked s body = .next t)
    (hb : body = .next t → (∃ e, t = raise e s) ∨ ResultsOnly s t) : RaisesOrResults s t := by
  obtain ⟨_, h⟩ | ⟨hf, h⟩ := checked_next h
  · exact .inl ⟨_, h⟩
  · exact (hb h).imp id fun h => ⟨hf, h⟩

theorem RaisesOrResults.of_withCode {body : CodeInstance → Result} (h : withCode s body = .next t)
    (hb : ∀ c, body c = .next t → (∃ e, t = raise e s) ∨ ResultsOnly s t) :
    RaisesOrResults s t := by
  obtain ⟨_, h⟩ | ⟨_, _, h⟩ | ⟨c, hr, h⟩ := withCode_next h
  · exact .inl ⟨_, h⟩
  · exact .inl ⟨_, h⟩
  · exact (hb c h).imp id fun h => ⟨hr.noFault, h⟩

/-- A body that raises under a condition and else completes. -/
theorem raise_or_complete {p : Prop} [Decidable p] {e : Kind} {u : State} (hu : ResultsOnly s u)
    (h : (if p then .next (raise e s) else .next u : Result) = .next t) :
    (∃ e, t = raise e s) ∨ ResultsOnly s t := by
  split at h <;> cases h
  · exact .inl ⟨e, rfl⟩
  · exact .inr hu

theorem execDecode_next {da : BitVector} (h : execDecode da s = .next t) : RaisesOrResults s t :=
  .of_withCode h fun c h => by
    dsimp only at h
    split at h
    · cases h; exact .inl ⟨_, rfl⟩
    split at h <;> cases h <;> exact .inr (resultsOnly_decode ..)

theorem execLocate_next {da : BitVector} (h : execLocate da s = .next t) : RaisesOrResults s t :=
  .of_withCode h fun c h => by
    dsimp only at h
    split at h
    · cases h; exact .inl ⟨_, rfl⟩
    split at h <;> cases h
    · exact .inr (resultsOnly_located ..)
    · exact .inr (resultsOnly_locate ..)

theorem execInjrand_next {da e : BitVector} {n : Nat} (h : execInjrand da n e s = .next t) :
    RaisesOrResults s t :=
  .of_checked h fun h => by
    split at h
    · cases h; exact .inl ⟨_, rfl⟩
    split at h <;> cases h
    exact .inr (resultsOnly_dout _)

/-- All CONSTRUCT can do when it answers a next state. -/
theorem execConstruct_next {k : Nat} (h : execConstruct k s = .next t) :
    (∃ e, t = raise e s) ∨
      (s.fault = false ∧ 1 ≤ k ∧ s.config.kmax.admits k = true ∧
        ∃ c, buildCode k = some c ∧ t = complete (commitCode c s)) := by
  obtain ⟨_, h⟩ | ⟨hf, h⟩ := checked_next h
  · exact .inl ⟨_, h⟩
  split at h
  · cases h; exact .inl ⟨_, rfl⟩
  rename_i hm
  split at h
  · cases h; exact .inl ⟨_, rfl⟩
  rename_i hk
  split at h
  · cases h; exact .inl ⟨_, rfl⟩
  rename_i c hc
  cases h
  exact .inr ⟨hf, by omega, by simpa using hm, c, hc, rfl⟩

/-- All exec can do when it answers a next state: a raise, a completed command that writes result
registers only, or the commit of a built instance. -/
theorem exec_next {i : Instr} (h : exec i s = .next t) :
    RaisesOrResults s t ∨
      (s.fault = false ∧ ∃ k c, i = .construct k ∧ 1 ≤ k ∧ s.config.kmax.admits k = true ∧
        buildCode k = some c ∧ t = complete (commitCode c s)) := by
  have dout {p : Prop} [Decidable p] {e : Kind} {v : BitVector} :=
    raise_or_complete (s := s) (t := t) (p := p) (e := e) (resultsOnly_dout v)
  cases i with
  | construct k =>
    obtain h | ⟨hf, hk, hm, c, hc, h⟩ := execConstruct_next h
    · exact .inl (.inl h)
    · exact .inr ⟨hf, k, c, rfl, hk, hm, hc, h⟩
  | encode da => exact .inl (.of_withCode h fun _ => dout)
  | decode da => exact .inl (execDecode_next h)
  | syndrome da =>
    exact .inl (.of_withCode h fun _ => raise_or_complete (resultsOnly_syndrome ..))
  | locate da => exact .inl (execLocate_next h)
  | gf2mulG da => exact .inl (.of_withCode h fun _ => dout)
  | gf2mulHT da => exact .inl (.of_withCode h fun _ => dout)
  | gf2mulGHT => exact .inl (.of_withCode h fun _ => dout)
  | vadd da db => exact .inl (.of_checked h dout)
  | flip da p => exact .inl (.of_checked h dout)
  | injrand da n e => exact .inl (execInjrand_next h)
  | i2v x w => exact .inl (.of_checked h dout)
  | v2i da => exact .inl (.of_checked h fun h => by cases h; exact .inr (resultsOnly_rval _))
  | inspectHcol j => exact .inl (.of_withCode h fun _ => dout)
  | inspectGcol j => exact .inl (.of_withCode h fun _ => dout)
  | inspectGrow r => exact .inl (.of_withCode h fun _ => dout)
  | inspectHrow j => exact .inl (.of_withCode h fun _ => dout)
  | inspectMask => exact .inl (.of_withCode h fun _ h => by cases h; exact .inr (resultsOnly_dout _))

/-! ### The host's actions and the step -/

/-- A host read of a register that holds a value: the host observes it. -/
theorem hostRead_of_val {r : HostReg} {v : Value} (h : hostView r s = .val v) :
    hostRead r s = .next (observe ⟨r, v⟩ s) := by simp [hostRead, h]

/-- A host read of a register that holds UNDEF: ReadUndef is recorded and no value is observed. -/
theorem hostRead_of_undef {r : HostReg} (h : hostView r s = .undef) :
    hostRead r s = .next (recordFault (.readUndef r) s) := by simp [hostRead, h]

/-- All a host read can do: it observes the register's value, or records ReadUndef. -/
theorem hostRead_next {r : HostReg} (h : hostRead r s = .next t) :
    (∃ v, hostView r s = .val v ∧ t = observe ⟨r, v⟩ s) ∨
      (hostView r s = .undef ∧ t = recordFault (.readUndef r) s) := by
  cases hv : hostView r s with
  | val v => rw [hostRead_of_val hv] at h; cases h; exact .inl ⟨v, rfl, rfl⟩
  | undef => rw [hostRead_of_undef hv] at h; cases h; exact .inr ⟨rfl, rfl⟩

/-- A reset keeps what is no register of the block, the recorded model faults among it (log entry 9). -/
theorem hostReset_host :
    (hostReset s).config = s.config ∧ (hostReset s).pending = s.pending ∧
      (hostReset s).observed = s.observed ∧ (hostReset s).modelFaults = s.modelFaults :=
  ⟨rfl, rfl, rfl, rfl⟩

/-- No instruction records a model fault: R150 has only ReadUndef, which a host read raises. -/
theorem exec_modelFaults {i : Instr} (h : exec i s = .next t) : t.modelFaults = s.modelFaults := by
  obtain (⟨e, rfl⟩ | ⟨_, hr, _⟩) | ⟨_, _, _, _, _, _, _, rfl⟩ := exec_next h
  · exact (raise_host e).2.2.2
  · rw [hr]
  · rfl

/-- All a presented command can do when it answers a next state. -/
theorem hostCommand_next {w : BitVec 16} {p : Ports} (h : hostCommand w p s = .next t) :
    p.presentable s.config = true ∧
      ((∃ i, decode w p = .ok i ∧ exec i s = .next t) ∨
        (∃ why, decode w p = .illegal why) ∧
          ((s.fault = true ∧ t = raise .constructionError s) ∨
            (s.fault = false ∧ t = raise .illegalCommand s))) := by
  unfold hostCommand at h
  split at h
  · rename_i hp
    refine ⟨hp, ?_⟩
    split at h
    · rename_i i hi; exact .inl ⟨i, hi, h⟩
    · rename_i why hw
      refine .inr ⟨⟨why, hw⟩, ?_⟩
      obtain h | ⟨hf, h⟩ := checked_next h
      · exact .inl h
      · cases h; exact .inr ⟨hf, rfl⟩
  · cases h

/-- All a step can do when it answers a next state. -/
theorem step_next (h : step s = .next t) :
    (s.pending = [] ∧ t = s) ∨
      (∃ w p rest, s.pending = .command w p :: rest ∧
        hostCommand w p { s with pending := rest } = .next t) ∨
      (∃ r rest, s.pending = .read r :: rest ∧ hostRead r { s with pending := rest } = .next t) ∨
      (∃ rest, s.pending = .reset :: rest ∧ t = hostReset { s with pending := rest }) := by
  unfold step at h
  split at h
  · rename_i hp; cases h; exact .inl ⟨hp, rfl⟩
  · rename_i w p rest hp; exact .inr (.inl ⟨w, p, rest, hp, h⟩)
  · rename_i r rest hp; exact .inr (.inr (.inl ⟨r, rest, hp, h⟩))
  · rename_i rest hp; cases h; exact .inr (.inr (.inr ⟨rest, hp, rfl⟩))

end Sys2Proof.Machine
end

