-- ==== Sys2Proof/Laws/PerInstr.lean ====
section
/-! SUPPORT. Per instruction: the fields of its command word (30_encoding.md R60, R64, R65). -/

namespace Sys2Proof.Laws

/-- RSV is 0 (R64), OPC is one the table of R62 uses, and SEL is nonzero only for the two operations
with variants, GF2MUL and INSPECT (R60). -/
abbrev EncodingFields.LegalFields (w : BitVec 16) : Prop :=
  rsvOf w = 0 ∧ 0x1 ≤ opcOf w ∧ opcOf w ≤ 0xC ∧ (selOf w ≠ 0 → opcOf w = 0x6 ∨ opcOf w = 0xC)

/-- The instruction's command word has legal fields. -/
def EncodingFields.Statement (i : Instr) : Prop := EncodingFields.LegalFields (encodeWord i)

theorem EncodingFields.construct (k : Nat) : EncodingFields.Statement (.construct k) :=
  (by decide : EncodingFields.LegalFields 0x0001)
theorem EncodingFields.encode (da : BitVector) : EncodingFields.Statement (.encode da) :=
  (by decide : EncodingFields.LegalFields 0x0002)
theorem EncodingFields.decode (da : BitVector) : EncodingFields.Statement (.decode da) :=
  (by decide : EncodingFields.LegalFields 0x0003)
theorem EncodingFields.syndrome (da : BitVector) : EncodingFields.Statement (.syndrome da) :=
  (by decide : EncodingFields.LegalFields 0x0004)
theorem EncodingFields.locate (da : BitVector) : EncodingFields.Statement (.locate da) :=
  (by decide : EncodingFields.LegalFields 0x0005)
theorem EncodingFields.gf2mulG (da : BitVector) : EncodingFields.Statement (.gf2mulG da) :=
  (by decide : EncodingFields.LegalFields 0x0006)
theorem EncodingFields.gf2mulHT (da : BitVector) : EncodingFields.Statement (.gf2mulHT da) :=
  (by decide : EncodingFields.LegalFields 0x0016)
theorem EncodingFields.gf2mulGHT : EncodingFields.Statement .gf2mulGHT :=
  (by decide : EncodingFields.LegalFields 0x0026)
theorem EncodingFields.vadd (da db : BitVector) : EncodingFields.Statement (.vadd da db) :=
  (by decide : EncodingFields.LegalFields 0x0007)
theorem EncodingFields.flip (da : BitVector) (p : Nat) : EncodingFields.Statement (.flip da p) :=
  (by decide : EncodingFields.LegalFields 0x0008)
theorem EncodingFields.injrand (da : BitVector) (t : Nat) (e : BitVector) : EncodingFields.Statement (.injrand da t e) :=
  (by decide : EncodingFields.LegalFields 0x0009)
theorem EncodingFields.i2v (x w : Nat) : EncodingFields.Statement (.i2v x w) :=
  (by decide : EncodingFields.LegalFields 0x000A)
theorem EncodingFields.v2i (da : BitVector) : EncodingFields.Statement (.v2i da) :=
  (by decide : EncodingFields.LegalFields 0x000B)
theorem EncodingFields.inspectHcol (j : Nat) : EncodingFields.Statement (.inspectHcol j) :=
  (by decide : EncodingFields.LegalFields 0x000C)
theorem EncodingFields.inspectGcol (j : Nat) : EncodingFields.Statement (.inspectGcol j) :=
  (by decide : EncodingFields.LegalFields 0x001C)
theorem EncodingFields.inspectGrow (r : Nat) : EncodingFields.Statement (.inspectGrow r) :=
  (by decide : EncodingFields.LegalFields 0x002C)
theorem EncodingFields.inspectHrow (i : Nat) : EncodingFields.Statement (.inspectHrow i) :=
  (by decide : EncodingFields.LegalFields 0x003C)
theorem EncodingFields.inspectMask : EncodingFields.Statement .inspectMask :=
  (by decide : EncodingFields.LegalFields 0x004C)

end Sys2Proof.Laws
end

