-- ==== Sys2Proof/Laws/Step.lean ====
section
/-! SUPPORT. One equation of the step per host action, what placing a word for the next step does, and
a run taken apart at its first step. -/

namespace Sys2Proof.Machine

variable {s : State}

theorem step_idle (h : s.pending = []) : step s = .next s := by simp [step, h]

theorem step_command {w : BitVec 16} {p : Ports} {rest : List HostAction}
    (h : s.pending = .command w p :: rest) :
    step s = hostCommand w p { s with pending := rest } := by simp [step, h]

theorem step_read {r : HostReg} {rest : List HostAction} (h : s.pending = .read r :: rest) :
    step s = hostRead r { s with pending := rest } := by simp [step, h]

theorem step_reset {rest : List HostAction} (h : s.pending = .reset :: rest) :
    step s = .next (hostReset { s with pending := rest }) := by simp [step, h]

/-- The next step presents exactly the placed word, in the state it was placed in. -/
theorem step_withFetchWord (s : State) (nbits w : Nat) :
    step (s.withFetchWord nbits w) = hostCommand (BitVec.ofNat 16 (w % 2 ^ nbits)) Ports.zero s := rfl

/-- A run whose first step answers a next state. -/
theorem run_succ {n : Nat} {t : State} (h : step s = .next t) :
    Host.Core.run core (n + 1) s = Host.Core.run core n t := by
  have h : core.step s = .next t := h
  simp [Host.Core.run, h]

/-- All a run of n + 1 steps can do when it answers a next state: a step and a run of n steps. -/
theorem run_succ_next {n : Nat} {u : State} (h : Host.Core.run core (n + 1) s = .next u) :
    ∃ t, step s = .next t ∧ Host.Core.run core n t = .next u := by
  simp only [Host.Core.run] at h
  split at h
  · rename_i t ht; exact ⟨t, ht, h⟩
  · cases h
  · cases h

end Sys2Proof.Machine
end

