-- ==== Sys2Proof/Tests/Slice0.lean ====
section
/-! SUPPORT. The model's own tests, with expected results taken from 95_test_vectors.md (named in each
comment) or written out from the rules; and, for every statement with hypotheses, a witness that meets
them together. -/

namespace Sys2Proof.Tests

open Sys2Proof Sys2Proof.Machine

/-! ## Helpers -/

/-- A bit vector written as digits, index 0 first. -/
def bv (ds : List Nat) : BitVector := ds.map (· == 1)

/-- The next state, where there is one. -/
def nextOf (r : Result) : Option State :=
  match r with
  | .next t => some t
  | _ => none

/-- The state after an instruction, or the state itself where it gives none. -/
def after (i : Instr) (s : State) : State := (nextOf (exec i s)).getD s

/-- The built instance for k (a filler where there is none). -/
def codeOf (k : Nat) : CodeInstance := (buildCode k).getD ⟨0, 0, 0, ⟨0, 0, []⟩, ⟨0, 0, []⟩, []⟩

/-- The block after reset and `CONSTRUCT k`. -/
def ready (k : Nat) : State := complete (commitCode (codeOf k) State.reset)

/-- The block after reset and `CONSTRUCT 0`. -/
def faulted : State := raise .constructionError State.reset

/-- Parameters with KMAX 4, LMAX 12, AW 4: they meet 00_scope.md R1. -/
def small : Config := ⟨.atMost 4, .atMost 12, .bits 4, 1⟩

/-- The k = 4 block with other parameters. -/
def readyWith (c : Config) : State := { ready 4 with config := c }

/-- A state whose host is about to do one thing. -/
def about (a : HostAction) (s : State) : State := { s with pending := [a] }

/-! ## Decoding: every row's word, bit by bit from opcode_table.json's `encoding` -/

def somePorts : Ports := ⟨7, 3, [true], [false, true], [true, true]⟩

theorem test_decode_construct : decode 0b0000000000000001 somePorts = .ok (.construct 7) := by decide
theorem test_decode_encode : decode 0b0000000000000010 somePorts = .ok (.encode [true]) := by decide
theorem test_decode_decode : decode 0b0000000000000011 somePorts = .ok (.decode [true]) := by decide
theorem test_decode_syndrome : decode 0b0000000000000100 somePorts = .ok (.syndrome [true]) := by decide
theorem test_decode_locate : decode 0b0000000000000101 somePorts = .ok (.locate [true]) := by decide
theorem test_decode_gf2mulG : decode 0b0000000000000110 somePorts = .ok (.gf2mulG [true]) := by decide
theorem test_decode_gf2mulHT : decode 0b0000000000010110 somePorts = .ok (.gf2mulHT [true]) := by decide
theorem test_decode_gf2mulGHT : decode 0b0000000000100110 somePorts = .ok .gf2mulGHT := by decide
theorem test_decode_vadd :
    decode 0b0000000000000111 somePorts = .ok (.vadd [true] [false, true]) := by decide
theorem test_decode_flip : decode 0b0000000000001000 somePorts = .ok (.flip [true] 7) := by decide
theorem test_decode_injrand :
    decode 0b0000000000001001 somePorts = .ok (.injrand [true] 7 [true, true]) := by decide
theorem test_decode_i2v : decode 0b0000000000001010 somePorts = .ok (.i2v 7 3) := by decide
theorem test_decode_v2i : decode 0b0000000000001011 somePorts = .ok (.v2i [true]) := by decide
theorem test_decode_inspectHcol :
    decode 0b0000000000001100 somePorts = .ok (.inspectHcol 7) := by decide
theorem test_decode_inspectGcol :
    decode 0b0000000000011100 somePorts = .ok (.inspectGcol 7) := by decide
theorem test_decode_inspectGrow :
    decode 0b0000000000101100 somePorts = .ok (.inspectGrow 7) := by decide
theorem test_decode_inspectHrow :
    decode 0b0000000000111100 somePorts = .ok (.inspectHrow 7) := by decide
theorem test_decode_inspectMask : decode 0b0000000001001100 somePorts = .ok .inspectMask := by decide

/-- L2.7: the illegal words, each with the reason R65 gives. -/
theorem test_decode_illegal :
    decode 0x0000 somePorts = .illegal .opcReserved ∧ decode 0x000D somePorts = .illegal .opcReserved ∧
    decode 0x000E somePorts = .illegal .opcReserved ∧ decode 0x000F somePorts = .illegal .opcReserved ∧
    decode 0x0011 somePorts = .illegal .selUnlisted ∧ decode 0x0036 somePorts = .illegal .selUnlisted ∧
    decode 0x005C somePorts = .illegal .selUnlisted ∧ decode 0x0106 somePorts = .illegal .rsvNonzero ∧
    decode 0x8002 somePorts = .illegal .rsvNonzero := by decide

theorem test_decodeTableWord :
    decodeTableWord 16 0x0026 = some .gf2mulGHT ∧ decodeTableWord 16 0x0000 = none := by decide

/-! ## WellFormed refuses an ill-formed term for each of its checks (R67, R161) -/

theorem test_wellFormed_accepts :
    Instr.wellFormed small (.construct 15) = true ∧
    Instr.wellFormed small (.encode (List.replicate 12 true)) = true ∧
    Instr.wellFormed small (.injrand (bv [0, 1]) 1 (bv [1, 0])) = true ∧
    Instr.wellFormed small .inspectMask = true ∧ Instr.wellFormed small .gf2mulGHT = true := by decide

theorem test_wellFormed_refuses_wide_scalars :
    Instr.wellFormed small (.construct 16) = false ∧ Instr.wellFormed small (.flip [true] 16) = false ∧
    Instr.wellFormed small (.i2v 16 0) = false ∧ Instr.wellFormed small (.i2v 0 16) = false ∧
    Instr.wellFormed small (.injrand [] 16 []) = false ∧
    Instr.wellFormed small (.inspectHcol 16) = false ∧ Instr.wellFormed small (.inspectGcol 16) = false ∧
    Instr.wellFormed small (.inspectGrow 16) = false ∧
    Instr.wellFormed small (.inspectHrow 16) = false := by decide

theorem test_wellFormed_refuses_long_vectors :
    let v := List.replicate 13 true
    Instr.wellFormed small (.encode v) = false ∧ Instr.wellFormed small (.decode v) = false ∧
    Instr.wellFormed small (.syndrome v) = false ∧ Instr.wellFormed small (.locate v) = false ∧
    Instr.wellFormed small (.gf2mulG v) = false ∧ Instr.wellFormed small (.gf2mulHT v) = false ∧
    Instr.wellFormed small (.vadd v []) = false ∧ Instr.wellFormed small (.vadd [] v) = false ∧
    Instr.wellFormed small (.flip v 0) = false ∧ Instr.wellFormed small (.injrand v 0 []) = false ∧
    Instr.wellFormed small (.v2i v) = false := by decide

/-- L2.1: the draw `0000000` is not in `E(1, 7)`. -/
theorem test_wellFormed_refuses_draw :
    Instr.wellFormed small (.injrand (bv [0, 1, 1, 0, 0, 1, 1]) 1 (bv [0, 0, 0, 0, 0, 0, 0])) = false := by
  decide

/-! ## Bit-vector utilities (L2.1) -/

theorem test_i2v : (after (.i2v 5 3) State.reset).dout = .val (bv [1, 0, 1]) := by decide
theorem test_i2v_range : nextOf (exec (.i2v 8 3) State.reset) = some { State.reset with status := 5 } := by
  decide
theorem test_v2i : (after (.v2i (bv [1, 0, 1, 0, 1])) State.reset).rval = .val 21 := by decide
theorem test_v2i_empty : (after (.v2i []) State.reset).rval = .val 0 := by decide
theorem test_vadd : (after (.vadd (bv [0, 1, 1, 0, 0, 1, 1]) (bv [1, 1, 0, 0, 0, 0, 0])) State.reset).dout
    = .val (bv [1, 0, 1, 0, 0, 1, 1]) := by decide
theorem test_vadd_length : nextOf (exec (.vadd (bv [0, 1]) (bv [0, 1, 1])) State.reset)
    = some { State.reset with status := 2 } := by decide
theorem test_flip : (after (.flip (bv [0, 1, 1, 0, 0, 1, 1]) 2) State.reset).dout
    = .val (bv [0, 1, 0, 0, 0, 1, 1]) := by decide
theorem test_flip_range : (after (.flip (bv [0, 1, 1, 0, 0, 1, 1]) 7) State.reset).status = 5 := by decide
theorem test_injrand :
    (after (.injrand (bv [0, 1, 1, 0, 0, 1, 1]) 1 (bv [0, 0, 0, 0, 1, 0, 0])) State.reset).dout
      = .val (bv [0, 1, 1, 0, 1, 1, 1]) := by decide
theorem test_injrand_two :
    (after (.injrand (bv [0, 1, 1, 0, 0, 1, 1]) 2 (bv [1, 0, 0, 0, 0, 0, 1])) State.reset).dout
      = .val (bv [1, 1, 1, 0, 0, 1, 0]) := by decide

/-! ## Construction (L2.2) -/

/-- The k = 5 instance: parameters, H, G, mask. -/
theorem test_construct_5 :
    buildCode 5 = some ⟨5, 4, 9,
      ⟨4, 9, [bv [0,0,0,0,0,0,0,1,1], bv [0,0,0,1,1,1,1,0,0], bv [0,1,1,0,0,1,1,0,0],
        bv [1,0,1,0,1,0,1,0,1]]⟩,
      ⟨5, 9, [bv [1,1,1,0,0,0,0,0,0], bv [1,0,0,1,1,0,0,0,0], bv [0,1,0,1,0,1,0,0,0],
        bv [1,1,0,1,0,0,1,0,0], bv [1,0,0,0,0,0,0,1,1]]⟩,
      bv [0,0,1,0,1,1,1,0,1]⟩ := by decide +kernel

/-- The k = 1 instance (one of the k of 90_conflicts.md C1), and `CONSTRUCT 4` from reset. -/
theorem test_construct_1 :
    buildCode 1 = some ⟨1, 2, 3, ⟨2, 3, [bv [0,1,1], bv [1,0,1]]⟩, ⟨1, 3, [bv [1,1,1]]⟩, bv [0,0,1]⟩ ∧
    nextOf (exec (.construct 4) State.reset) = some (ready 4) := by decide

/-- The table of m and n. -/
theorem test_deriveM : ([1, 2, 3, 4, 5, 11, 12, 16, 26, 27, 57, 58, 120, 121, 247, 248].map deriveM)
    = [2, 3, 3, 3, 4, 4, 5, 5, 5, 6, 6, 7, 7, 8, 8, 9] := by decide +kernel

/-- The k = 4 record (R94). -/
theorem test_record_4 : record (parity 3 7) (systemize (parity 3 7)).1 = some [(0, 2), (2, 3), (3, 0)] := by
  decide

/-! ## Codec (L2.3, L2.4, L2.5) -/

theorem test_encode : (after (.encode (bv [1, 0, 1, 1])) (ready 4)).dout
    = .val (bv [0, 1, 1, 0, 0, 1, 1]) := by decide
theorem test_encode_16 :
    (after (.encode (bv [0,0,0,0,0,0,0,0,1,0,0,1,0,0,1,0])) (ready 16)).dout
      = .val (bv [0,0,0,0,0,0,0,1,0,0,0,0,1,0,0,0,1,0,0,1,0]) := by decide +kernel
theorem test_decode_corrected : nextOf (exec (.decode (bv [0, 1, 1, 0, 1, 1, 1])) (ready 4)) =
    some { ready 4 with
      syn := .val (bv [1, 0, 1]), synval := .val 5, errdet := .val true, outcome := .val 1,
      dvalid := .val true, dout := .val (bv [1, 0, 1, 1]), status := 0 } := by decide
theorem test_decode_uncorrectable : nextOf (exec (.decode (bv [0, 1, 0, 0, 1])) (ready 2)) =
    some { ready 2 with
      syn := .val (bv [1, 1, 1]), synval := .val 7, errdet := .val true, outcome := .val 2,
      dvalid := .val false, dout := .val [], status := 0 } := by decide
theorem test_syndrome : nextOf (exec (.syndrome (bv [0, 1, 1, 0, 1, 1, 1])) (ready 4)) =
    some { ready 4 with syn := .val (bv [1, 0, 1]), synval := .val 5, status := 0 } := by decide
theorem test_syndrome_length : (after (.syndrome (bv [0, 1, 1, 0, 0, 1])) (ready 4)).status = 2 := by decide
theorem test_locate : nextOf (exec (.locate (bv [1, 0, 1])) (ready 4)) =
    some { ready 4 with
      synval := .val 5, errdet := .val true, outcome := .val 1, rval := .val 4, status := 0 } := by decide
/-- k = 12: `10010` is 18 > N = 17; RVAL keeps its value. -/
theorem test_locate_uncorrectable :
    nextOf (exec (.locate (bv [1, 0, 0, 1, 0])) { ready 12 with rval := .val 16 }) =
      some { ready 12 with
        rval := .val 16, synval := .val 18, errdet := .val true, outcome := .val 2, status := 0 } := by
  decide +kernel
theorem test_gf2mulG : (after (.gf2mulG (bv [1, 0, 1, 1])) (ready 4)).dout
    = .val (bv [0, 1, 1, 0, 0, 1, 1]) := by decide
theorem test_gf2mulG_length : (after (.gf2mulG (bv [1, 0, 1, 1, 0])) (ready 4)).status = 2 := by decide
theorem test_gf2mulHT : (after (.gf2mulHT (bv [0, 1, 1, 0, 1, 1, 1])) (ready 4)).dout
    = .val (bv [1, 0, 1]) := by decide
theorem test_gf2mulHT_length : (after (.gf2mulHT (bv [0, 1, 1, 0])) (ready 4)).status = 2 := by decide
theorem test_gf2mulGHT : (after .gf2mulGHT (ready 4)).dout = .val (List.replicate 12 false) := by decide
/-- An LMAX below K*M, as in L2.5's last row. -/
theorem test_gf2mulGHT_range :
    (after .gf2mulGHT (readyWith { small with lmax := .atMost 11 })).status = 5 := by decide

/-! ## Inspect (L2.6) -/

theorem test_inspectHcol : (after (.inspectHcol 4) (ready 4)).dout = .val (bv [1, 0, 1]) := by decide
theorem test_inspectHcol_range : (after (.inspectHcol 7) (ready 4)).status = 5 := by decide
theorem test_inspectGcol : (after (.inspectGcol 0) (ready 4)).dout = .val (bv [1, 1, 0, 1]) := by decide
theorem test_inspectGcol_range : (after (.inspectGcol 7) (ready 4)).status = 5 := by decide
theorem test_inspectGrow : (after (.inspectGrow 3) (ready 4)).dout
    = .val (bv [1, 1, 0, 1, 0, 0, 1]) := by decide
theorem test_inspectGrow_range : (after (.inspectGrow 4) (ready 4)).status = 5 := by decide
theorem test_inspectHrow : (after (.inspectHrow 2) (ready 4)).dout
    = .val (bv [1, 0, 1, 0, 1, 0, 1]) := by decide
theorem test_inspectHrow_range : (after (.inspectHrow 3) (ready 4)).status = 5 := by decide
theorem test_inspectMask : (after .inspectMask (ready 4)).dout
    = .val (bv [0, 0, 1, 0, 1, 1, 1]) := by decide
theorem test_inspectMask_noInstance :
    nextOf (exec .inspectMask State.reset) = some { State.reset with status := 3 } := by decide

/-! ## Status, reset and host reads (L2.7, L2.8, P4) -/

/-- FAULT beats an illegal word; the word placed for the next step is what it runs. -/
theorem test_fault_beats_illegal : nextOf (step (faulted.withFetchWord 16 0x0000)) = some faulted := by decide

/-- Illegal beats NoInstance. -/
theorem test_illegal_beats_noInstance :
    nextOf (step (State.reset.withFetchWord 16 0x0036)) = some { State.reset with status := 4 } := by decide

/-- FAULT = 1: `CONSTRUCT 4` raises ConstructionError; `reset` clears it. -/
theorem test_fault_is_sticky :
    nextOf (exec (.construct 4) faulted) = some faulted ∧
    nextOf (step (about .reset faulted)) = some State.reset := by decide

/-- P4 and R150: after `reset`, `read DOUT` gives no value and is the model fault ReadUndef. -/
theorem test_read_undef : nextOf (step (about (.read .dout) State.reset)) =
    some { State.reset with modelFaults := [.readUndef .dout] } := by decide

/-- R150: a recorded model fault is never cleared, by a reset neither. -/
theorem test_reset_keeps_modelFault :
    (nextOf (step { about .reset faulted with modelFaults := [.readUndef .k] })).map
      (fun t => (t.fault, t.modelFaults)) = some (false, [.readUndef .k]) := by decide

theorem test_read_valid : nextOf (step (about (.read .valid) State.reset)) =
    some { State.reset with observed := [⟨.valid, .bit false⟩] } := by decide

/-! ## Witnesses: states and operands that meet the hypotheses of the statements -/

theorem ready4_ready : (ready 4).Ready (codeOf 4) := ⟨rfl, rfl, rfl⟩

theorem ready4_built : 1 ≤ 4 ∧ buildCode 4 = some (codeOf 4) := by decide

theorem ready2_ready : (ready 2).Ready (codeOf 2) ∧ buildCode 2 = some (codeOf 2) :=
  ⟨⟨rfl, rfl, rfl⟩, by decide⟩

/-- The k = 4 block meets the invariant, with any parameters that admit 4. -/
theorem readyWith_inv {c : Config} (h : c.kmax.admits 4 = true) : (readyWith c).Inv where
  faultClears := nofun
  cleared := nofun
  built _ := ⟨4, codeOf 4, by decide, h, by decide, rfl⟩
  statusCode := (by decide : (0#3).toNat ≤ 5)
  flags := .inl ⟨rfl, rfl⟩

theorem ready4_inv : (ready 4).Inv := readyWith_inv (c := Config.unbounded) rfl

/-- The faulted block meets the invariant. -/
theorem faulted_inv : faulted.Inv where
  faultClears _ := rfl
  cleared _ := ⟨rfl, rfl, rfl, rfl, rfl, rfl⟩
  built := nofun
  statusCode := by decide
  flags := .inl ⟨rfl, rfl⟩

/-- The parameters `small` meet R1. -/
theorem small_conforms : small.Conforms where
  kmax := by decide
  lmax k h1 h4 := by
    have : k ≤ 4 := by simpa [small, Bound.admits] using h4
    interval_cases k <;> decide
  aw w h := ⟨4, 12, rfl, rfl, by cases h; decide⟩

/-- A state about to present a command, with every hypothesis of StepRunsDecodedCommand. -/
theorem witness_stepRunsDecodedCommand :
    (about (.command 0x0008 somePorts) (ready 4)).pending = .command 0x0008 somePorts :: [] ∧
    somePorts.presentable (about (.command 0x0008 somePorts) (ready 4)).config = true ∧
    decode 0x0008 somePorts = .ok (.flip [true] 7) := by decide

/-- An illegal word of each clause of IllegalWordRaises: the largest illegal word below the RSV bits,
and the smallest word with an RSV bit. -/
theorem witness_illegalWordRaises :
    somePorts.presentable State.reset.config = true ∧ State.reset.fault = false ∧
    (0x00FF#16).toNat ∉ legalWords ∧ (0x0100#16).toNat / 256 ≠ 0 := by decide

/-- The four cases of ChecksInOrder. -/
theorem witness_checksInOrder :
    somePorts.presentable State.reset.config = true ∧
    (about (.command 0x0000 somePorts) faulted).fault = true ∧
    State.reset.fault = false ∧ decode 0x0000 somePorts = .illegal .opcReserved ∧
    decode 0x004C somePorts = .ok .inspectMask ∧ Instr.inspectMask.needsInstance = true ∧
    State.reset.valid = false ∧ (ready 4).valid = true ∧ (ready 4).fault = false ∧
    decode 0x000B somePorts = .ok (.v2i [true]) ∧ (Instr.v2i [true]).needsInstance = false := by decide

/-- An operand one beyond each port, and a draw outside its set. -/
theorem witness_missingMoves :
    Ports.presentable small { Ports.zero with arg := 16 } = false ∧
    Ports.presentable small { Ports.zero with argb := 16 } = false ∧
    Ports.presentable small { Ports.zero with da := List.replicate 13 true } = false ∧
    Ports.presentable small { Ports.zero with db := List.replicate 13 true } = false ∧
    Ports.presentable small ⟨15, 15, List.replicate 12 true, List.replicate 12 true, []⟩ = true ∧
    State.reset.fault = false ∧ 1 ≤ (bv [0, 1]).length ∧
    inDrawSet 1 (bv [0, 1]).length (bv [1, 1]) = false := by decide

theorem witness_reset : (about .reset faulted).pending = .reset :: [] := rfl

/-- A state that holds UNDEF in every register that can, about to be read; a run that goes through such a
read and a reset; and a step that records nothing. -/
theorem witness_readOfUndef :
    (about (.read .k) State.reset).pending = .read .k :: [] ∧
    (about (.read .rval) State.reset).pending = .read .rval :: [] ∧
    State.reset.k = .undef ∧ State.reset.m = .undef ∧ State.reset.n = .undef ∧
    State.reset.dout = .undef ∧ State.reset.syn = .undef ∧ State.reset.synval = .undef ∧
    State.reset.errdet = .undef ∧ State.reset.outcome = .undef ∧ State.reset.dvalid = .undef ∧
    State.reset.rval = .undef ∧ hostView .rval State.reset = .undef ∧
    (nextOf (Host.Core.run core 2 { State.reset with pending := [.read .k, .reset] })).map
      (·.modelFaults) = some [.readUndef .k] ∧
    (nextOf (step (about .reset State.reset))).map (·.modelFaults) = some [] := by decide

/-- A reachable state in which every register holds a value: DECODE, then V2I on the k = 4 block. -/
def full : State := after (.v2i (bv [1, 0, 1])) (after (.decode (bv [0, 1, 1, 0, 1, 1, 1])) (ready 4))

theorem witness_hostRead :
    (about (.read .outcome) full).pending = .read .outcome :: [] ∧
    full.k = .val 4 ∧ full.m = .val 3 ∧ full.n = .val 7 ∧ full.dout = .val (bv [1, 0, 1, 1]) ∧
    full.syn = .val (bv [1, 0, 1]) ∧ full.synval = .val 5 ∧ full.errdet = .val true ∧
    full.outcome = .val 1 ∧ full.dvalid = .val true ∧ full.rval = .val 5 := by decide

theorem witness_idle : State.reset.pending = [] := rfl

theorem witness_faulted : faulted.fault = true := rfl

theorem witness_noInstance : State.reset.fault = false ∧ State.reset.valid = false := ⟨rfl, rfl⟩

/-- OnlyResetClearsFault: a reset out of the fault, the two ways VALID is cleared, and two different
states the same reset brings together. -/
theorem witness_onlyResetClearsFault :
    (step (about .reset faulted) = .next State.reset ∧ faulted.fault = true ∧
      State.reset.fault = false) ∧
    (step (about .reset (ready 4)) = .next State.reset ∧ (ready 4).valid = true) ∧
    (nextOf (step ((ready 4).withFetchWord 16 0x0001))).map (fun t => (t.valid, t.fault, t.status))
      = some (false, true, 1) ∧
    (about .reset faulted).pending = (about .reset (ready 4)).pending ∧
    faulted.config = (ready 4).config ∧ faulted.observed = (ready 4).observed ∧
    faulted.modelFaults = (ready 4).modelFaults ∧ faulted ≠ ready 4 :=
  ⟨⟨rfl, rfl, rfl⟩, ⟨rfl, rfl⟩, by decide, rfl, rfl, rfl, rfl, by decide⟩

/-- RaiseWritesStatusOnly: a raise of each kind. -/
theorem witness_raises :
    (nextOf (exec (.construct 0) State.reset)).map (·.status) = some 1 ∧
    (nextOf (exec (.encode []) (ready 4))).map (·.status) = some 2 ∧
    (nextOf (exec (.encode []) State.reset)).map (·.status) = some 3 ∧
    (nextOf (exec (.flip [] 0) State.reset)).map (·.status) = some 5 := by decide

/-- OnlyConstructWritesInstance: a DECODE on the k = 4 block, and a CONSTRUCT that succeeds. -/
theorem witness_onlyConstruct :
    (about (.command 0x0003 { Ports.zero with da := bv [0,1,1,0,0,1,1] }) (ready 4)).Inv ∧
    (nextOf (step (about (.command 0x0003 { Ports.zero with da := bv [0,1,1,0,0,1,1] }) (ready 4)))).isSome
      = true ∧
    (nextOf (exec (.construct 2) (ready 4))).map (·.status) = some 0 :=
  ⟨{ ready4_inv with }, by decide, by decide⟩

/-- ResultRegisterFrame and NoCommandReadsResultRegisters: every instruction answers a next state on
the k = 4 block, and two states may differ in every result register. -/
theorem witness_everyInstructionAnswers :
    (([.construct 4, .encode (bv [1,0,1,1]), .decode (bv [0,1,1,0,1,1,1]), .syndrome (bv [0,1,1,0,1,1,1]),
      .locate (bv [1,0,1]), .gf2mulG (bv [1,0,1,1]), .gf2mulHT (bv [0,1,1,0,1,1,1]), .gf2mulGHT,
      .vadd [true] [true], .flip [true] 0, .injrand [true] 1 [true], .i2v 1 1, .v2i [true],
      .inspectHcol 0, .inspectGcol 0, .inspectGrow 0, .inspectHrow 0, .inspectMask] : List Instr).all
        fun i => (nextOf (exec i (ready 4))).map (·.status) == some 0) = true := by decide +kernel

theorem witness_noCommandReadsResults :
    full.k = (ready 4).k ∧ full.h = (ready 4).h ∧ full.valid = (ready 4).valid ∧
    full.fault = (ready 4).fault ∧ full.m = (ready 4).m ∧ full.n = (ready 4).n ∧
    full.g = (ready 4).g ∧ full.mask = (ready 4).mask ∧ full.config = (ready 4).config ∧
    full.dout ≠ (ready 4).dout ∧ full.rval ≠ (ready 4).rval ∧
    (nextOf (exec .inspectMask (ready 4))).isSome = true := by decide

/-- StepKeepsInvariant: a step from a state that meets the invariant. -/
theorem witness_stepKeepsInvariant : (ready 4).Inv ∧ step (ready 4) = .next (ready 4) :=
  ⟨ready4_inv, rfl⟩

theorem witness_everyCommandCompletes :
    (readyWith small).Inv ∧ Instr.wellFormed (readyWith small).config (.injrand (bv [0, 1]) 2 (bv [1, 1])) = true :=
  ⟨readyWith_inv rfl, by decide⟩

/-- A dutiful script: a command, an illegal word, a read, a reset. -/
def script : List HostAction :=
  [.command 0x0003 { Ports.zero with da := bv [0,1,1,0,0,1,1] }, .command 0x0000 Ports.zero,
    .read .status, .reset]

theorem witness_dutifulRun :
    ({ ready 4 with pending := script } : State).Inv ∧
    ∀ a ∈ script, a.dutiful (ready 4).config = true :=
  ⟨{ ready4_inv with }, by decide⟩

/-- ProductsAreSumsModTwo: entries of the k = 4 product `G ×2 H^T`. -/
theorem witness_products :
    2 < (codeOf 4).h.transpose.cols ∧ 3 < (codeOf 4).g.bits.length ∧
    ((codeOf 4).g.row 3).length = (codeOf 4).h.transpose.rows := by decide

theorem witness_uintVec : 2 < 3 ∧ 7 < 2 ^ 3 := by decide

/-- I2V: the largest width and value that fit, and one beyond each. -/
theorem witness_i2v :
    (readyWith small).fault = false ∧ (readyWith small).config.lmax.admits 12 = true ∧
    2 ^ 12 - 1 < 2 ^ 12 ∧ (readyWith small).config.lmax.admits 13 = false ∧ 2 ^ 3 ≤ 8 := by decide

theorem witness_noFault : State.reset.fault = false := rfl

theorem witness_vadd : (bv [0, 1]).length = (bv [1, 1]).length ∧ (bv [0, 1]).length ≠ (bv [0, 1, 1]).length := by
  decide

theorem witness_flip : 6 < (bv [0,1,1,0,0,1,1]).length ∧ (bv [0,1,1,0,0,1,1]).length ≤ 7 := by decide

/-- INJRAND: t at the word's length with a draw of weight t, and one above. -/
theorem witness_injrand :
    2 ≤ (bv [0, 1]).length ∧ inDrawSet 2 2 (bv [1, 1]) = true ∧ inDrawSet 1 2 (bv [0, 1]) = true ∧
    inDrawSet 0 2 (bv [0, 0]) = true ∧ (bv [0, 1]).length < 3 := by decide

/-- CONSTRUCT: k at KMAX and one above. -/
theorem witness_construct :
    (readyWith small).fault = false ∧ 1 ≤ 4 ∧ (readyWith small).config.kmax.admits 4 = true ∧
    (readyWith small).config.kmax.admits 5 = false ∧
    (nextOf (exec (.construct 0) (readyWith small))).map (·.status) = some 1 := by decide

/-- DerivedMIsMinimal: the bottom and the top of the m = 3 range. -/
theorem witness_derivedM :
    1 ≤ 2 ∧ 2 ≤ 3 ∧ 2 ^ (3 - 1) - 3 + 1 ≤ 2 ∧ 4 ≤ 2 ^ 3 - 3 - 1 ∧ 1 ≤ 1 ∧ 1 < deriveM 1 := by decide

/-- CopyOrderIsIrrelevant: the k = 4 record and a rearrangement of it. -/
theorem witness_copyOrder :
    record (parity (deriveM 4) (deriveM 4 + 4)) (systemize (parity (deriveM 4) (deriveM 4 + 4))).1
      = some [(0, 2), (2, 3), (3, 0)] ∧
    [(3, 0), (0, 2), (2, 3)].Perm [(0, 2), (2, 3), (3, 0)] := by decide

/-- ENCODE, GF2MUL.G: a word of K bits and one that is not. -/
theorem witness_encode : (ready 4).Ready (codeOf 4) ∧ (bv [1,0,1,1]).length = (codeOf 4).k ∧
    (bv [1,0,1]).length ≠ (codeOf 4).k ∧ buildCode 4 = some (codeOf 4) :=
  ⟨ready4_ready, by decide, by decide, by decide⟩

/-- DECODE on the k = 2 block (N = 5): no error, an error at the last place, a value above N, a wrong
length. -/
theorem witness_decode :
    (ready 2).Ready (codeOf 2) ∧ (codeOf 2).n = 5 ∧
    uint (vecMul (bv [0,0,0,0,0]) (codeOf 2).h.transpose) = 0 ∧
    uint (vecMul (bv [0,0,0,0,1]) (codeOf 2).h.transpose) = 5 ∧
    uint (vecMul (bv [0,1,0,0,1]) (codeOf 2).h.transpose) = 7 ∧
    (bv [0,1,0,0]).length ≠ (codeOf 2).n ∧ pow2 (3 + 1) = true ∧ (codeOf 2).n < 2 ^ (codeOf 2).m - 1 :=
  ⟨ready2_ready.1, by decide, by decide, by decide, by decide, by decide, by decide, by decide⟩

/-- SYNDROME, GF2MUL.HT: a word of N bits and one that is not. -/
theorem witness_syndrome : (ready 4).Ready (codeOf 4) ∧ (bv [0,1,1,0,1,1,1]).length = (codeOf 4).n ∧
    (bv [0,1,1,0]).length ≠ (codeOf 4).n := ⟨ready4_ready, by decide, by decide⟩

/-- LOCATE on the k = 2 block: value 0, N, N + 1 and a wrong length. -/
theorem witness_locate :
    (ready 2).Ready (codeOf 2) ∧ (bv [0,0,0]).length = (codeOf 2).m ∧ uint (bv [0,0,0]) = 0 ∧
    uint (bv [1,0,1]) = (codeOf 2).n ∧ uint (bv [1,1,0]) = (codeOf 2).n + 1 ∧
    (bv [0,1]).length ≠ (codeOf 2).m :=
  ⟨ready2_ready.1, by decide, by decide, by decide, by decide, by decide⟩

/-- GF2MUL.GHT: the product at LMAX, above it, and in a conforming configuration. -/
theorem witness_gf2mulGHT :
    (readyWith small).Ready (codeOf 4) ∧ (readyWith small).Inv ∧ (readyWith small).config.Conforms ∧
    (readyWith small).config.lmax.admits ((codeOf 4).k * (codeOf 4).m) = true ∧
    Bound.admits (.atMost 11) ((codeOf 4).k * (codeOf 4).m) = false :=
  ⟨⟨rfl, rfl, rfl⟩, readyWith_inv rfl, small_conforms, by decide, by decide⟩

/-- SyndromeIsXorOfPositions, SyndromeIsLinear, CodewordLayout: words of the right lengths. -/
theorem witness_builtWords : 1 ≤ 4 ∧ buildCode 4 = some (codeOf 4) ∧
    (bv [0,1,1,0,1,1,1]).length = (codeOf 4).n ∧ (bv [1,0,1,1]).length = 4 := by decide

/-- DecodeOfEncode, SingleErrorCorrected, MultiBitErrors: the last position, two positions, a pattern of
weight two. -/
theorem witness_errors :
    1 ≤ 2 ∧ buildCode 2 = some (codeOf 2) ∧ (ready 2).Ready (codeOf 2) ∧ (bv [1, 0]).length = 2 ∧
    4 < (codeOf 2).n ∧ 1 < 4 ∧ (codeOf 2).n < (1 + 1) ^^^ (4 + 1) ∧ (0 + 1) ^^^ (1 + 1) ≤ (codeOf 2).n ∧
    (bv [1, 1, 0, 0, 0]).length = (codeOf 2).n ∧ 2 ≤ popcount (bv [1, 1, 0, 0, 0]) :=
  ⟨by decide, by decide, ready2_ready.1, by decide, by decide, by decide, by decide, by decide, by decide,
    by decide⟩

/-- UncorrectableOnlyAboveN: an uncorrectable DECODE and LOCATE on the k = 2 block. -/
theorem witness_uncorrectable :
    (ready 2).Ready (codeOf 2) ∧ (bv [0,1,0,0,1]).length = (codeOf 2).n ∧
    (nextOf (exec (.decode (bv [0,1,0,0,1])) (ready 2))).map (·.outcome) = some (.val 2) ∧
    (bv [1,1,0]).length = (codeOf 2).m ∧
    (nextOf (exec (.locate (bv [1,1,0])) (ready 2))).map (·.outcome) = some (.val 2) :=
  ⟨ready2_ready.1, by decide, by decide, by decide, by decide⟩

/-- The INSPECT forms: the last index of each and one beyond. -/
theorem witness_inspect :
    (ready 4).Ready (codeOf 4) ∧ 6 < (codeOf 4).n ∧ (codeOf 4).n ≤ 7 ∧ 3 < (codeOf 4).k ∧
    (codeOf 4).k ≤ 4 ∧ 2 < (codeOf 4).m ∧ (codeOf 4).m ≤ 3 :=
  ⟨ready4_ready, by decide, by decide, by decide, by decide, by decide, by decide⟩

end Sys2Proof.Tests
end

section
/-! SUPPORT. Proofs about the notation of 00_scope.md: uint as a sum and vec as its inverse (R3, R4),
the GF(2) products as integer sums modulo 2 and as XORs of selected entries (R6, R8). -/

namespace Sys2Proof

/-! ### uint and vec -/

/-- `uint(v)` is the sum of its bits' weights (R3). -/
theorem uint_eq_sum (v : BitVector) : uint v =
    ((List.range v.length).map fun i => (v.getD i false).toNat * 2 ^ (v.length - 1 - i)).sum := by
  induction v with
  | nil => rfl
  | cons b v ih =>
    rw [uint_cons, ih, List.length_cons, List.range_succ_eq_map]
    simp [Function.comp_def, Nat.sub_sub, Nat.add_comm 1]

/-- `vec_{w+1}` puts the bit of weight `2^w` before `vec_w` (R4). -/
theorem vec_succ (w x : Nat) : vec (w + 1) x = (x / 2 ^ w % 2 == 1) :: vec w x := by
  simp [vec, List.range_succ_eq_map, Function.comp_def, Nat.sub_sub, Nat.add_comm 1]

/-- `fix(x)` as an integer is x mod 2 (R6). -/
@[simp] theorem toNat_fix (x : Nat) : (fix x).toNat = x % 2 := by
  rcases Nat.mod_two_eq_zero_or_one x with h | h <;> simp [fix, h]

/-- `vec_w` keeps the w low bits of its argument (R4). -/
theorem uint_vec_eq_mod (w x : Nat) : uint (vec w x) = x % 2 ^ w := by
  induction w with
  | zero => simp [vec, Nat.mod_one]
  | succ w ih =>
    calc uint (vec (w + 1) x) = (fix (x / 2 ^ w)).toNat * 2 ^ w + uint (vec w x) := by
          rw [vec_succ, uint_cons, length_vec, fix]
      _ = x % 2 ^ (w + 1) := by rw [toNat_fix, ih, Nat.mod_pow_succ, Nat.mul_comm, Nat.add_comm]

/-- `uint` undoes `vec_w` on the values that fit in w bits (R3, R4). -/
theorem uint_vec {w x : Nat} (h : x < 2 ^ w) : uint (vec w x) = x := by
  rw [uint_vec_eq_mod, Nat.mod_eq_of_lt h]

/-- Two vectors of one length with one value are equal: the first bits agree because the rest of a
vector is worth less than the first bit's weight (`uint_lt`). -/
theorem eq_of_uint_eq {u v : BitVector} (hl : u.length = v.length) (h : uint u = uint v) : u = v := by
  induction u generalizing v with
  | nil => exact (List.length_eq_zero_iff.1 hl.symm).symm
  | cons b u ih =>
    obtain _ | ⟨c, v⟩ := v
    · cases hl
    have hl' : u.length = v.length := Nat.succ.inj hl
    have hu := uint_lt u
    have hv := uint_lt v
    rw [uint_cons, uint_cons, hl'] at h
    rw [hl'] at hu
    have hbc : b = c := by
      match b, c with
      | false, false | true, true => rfl
      | false, true | true, false => simp at h; omega
    subst hbc
    rw [ih hl' (Nat.add_left_cancel h)]

/-- `vec` at a vector's own length undoes `uint` (R3, R4). -/
@[simp] theorem vec_uint (v : BitVector) : vec v.length (uint v) = v :=
  eq_of_uint_eq (length_vec _ _) (uint_vec (uint_lt v))

/-! ### Sums modulo 2 -/

/-- `fix` turns integer addition into XOR (R6). -/
theorem fix_add_nat (x y : Nat) : fix (x + y) = (fix x ^^ fix y) := by
  rw [← fix_add, toNat_fix, toNat_fix]
  simp only [fix, Nat.add_mod_mod, Nat.mod_add_mod]

/-- The sum of products `p l * g l` modulo 2 is the XOR of the `g l` that `p` selects, from any
start value. -/
theorem foldl_xor_filter {α : Type} (p g : α → Bool) (ls : List α) (acc : Bool) :
    (ls.filter p).foldl (fun x l => x ^^ g l) acc =
      (acc ^^ fix (ls.map fun l => (p l).toNat * (g l).toNat).sum) := by
  induction ls generalizing acc with
  | nil => simp [fix]
  | cons l ls ih =>
    have hfix : fix (g l).toNat = g l := by cases g l <;> rfl
    cases hp : p l with
    | false => simp [hp, ih]
    | true => simp [hp, ih, fix_add_nat, hfix]

/-! ### The products -/

/-- An entry of `v x2 B` as an integer (R8). -/
theorem toNat_getD_vecMul (v : BitVector) {b : BitMatrix} {j : Nat} (h : j < b.cols) :
    ((vecMul v b).getD j false).toNat = dotCol v b j % 2 := by
  rw [getD_vecMul v h, toNat_fix]

/-- `v x2 B` is the XOR of the rows of B that the ones of v select (R8). -/
theorem getD_vecMul_eq_xor (v : BitVector) {b : BitMatrix} {j : Nat} (h : j < b.cols) :
    (vecMul v b).getD j false =
      ((List.range v.length).filter fun l => v.getD l false).foldl (fun x l => x ^^ b.entry l j)
        false := by
  rw [getD_vecMul v h, foldl_xor_filter, Bool.false_xor, dotCol]

/-- Row i of `A x2 B` is row i of A times B (R8). -/
theorem row_matMul {a : BitMatrix} {i : Nat} (h : i < a.bits.length) (b : BitMatrix) :
    (matMul a b).row i = vecMul (a.row i) b := by
  simp [BitMatrix.row, matMul, List.getD_eq_getElem?_getD, h]

/-- An entry of `A x2 B` is an entry of its row (R7, R8). -/
theorem entry_matMul {a : BitMatrix} {i : Nat} (h : i < a.bits.length) (b : BitMatrix) (j : Nat) :
    (matMul a b).entry i j = (vecMul (a.row i) b).getD j false := by
  rw [← row_matMul h]; rfl

/-! ### The statements -/

/-- Settles O23: uint is a sum by induction on the vector, uint of vec by induction on the width, and
vec of uint because uint is injective at each length. -/
theorem uintAndVecAreInverse : Obligations.UintAndVecAreInverse := by
  refine ⟨uint_eq_sum, length_vec, ?_, fun _ _ => uint_vec, vec_uint⟩
  intro w x i hi
  rw [getD_vec hi, beq_iff_eq]

/-- Settles O24: an entry of a product is `fix` of the integer sum `dotCol`, and `fix` turns that sum
into the XOR of the selected entries. -/
theorem productsAreSumsModTwo : Obligations.ProductsAreSumsModTwo := by
  refine ⟨length_vecMul, fun v _ _ => toNat_getD_vecMul v, fun v _ _ => getD_vecMul_eq_xor v, ?_⟩
  intro a b i j hi hrow hj
  rw [entry_matMul hi, toNat_getD_vecMul _ hj, dotCol, hrow]
  rfl

end Sys2Proof
end

section
/-! SUPPORT. The invariant of the machine over one step (10_state.md R23 to R34, 60_exceptions.md R143):
one lemma per operation a step is made of. -/

namespace Sys2Proof.Machine

variable {s t : State}

/-! ### The invariant over one step -/

theorem kindCode_toNat_le (e : Kind) : (kindCode e).toNat ≤ 5 := by cases e <;> decide

theorem inv_raise (hi : s.Inv) (e : Kind) : (raise e s).Inv := by
  by_cases he : e = .constructionError
  · subst he
    exact {
      faultClears := fun _ => rfl
      cleared := fun _ => ⟨rfl, rfl, rfl, rfl, rfl, rfl⟩
      built := nofun
      statusCode := kindCode_toNat_le .constructionError
      flags := hi.flags }
  · rw [raise_of_ne he]
    exact { hi with statusCode := kindCode_toNat_le e }

/-- A completed command that commits no instance keeps the invariant: flags it writes are those of a
syndrome value (R34). -/
theorem inv_resultsOnly (hi : s.Inv) (h : ResultsOnly s t) : t.Inv := by
  obtain ⟨ht, hw⟩ := h
  have hflags : (t.errdet = .undef ∧ t.outcome = .undef) ∨
      ∃ o : BitVec 2, t.outcome = .val o ∧ o.toNat ≤ 2 ∧ t.errdet = .val (decide (o ≠ 0)) := by
    obtain ⟨he, ho⟩ | ⟨v, n, he, ho⟩ := hw
    · rw [he, ho]; exact hi.flags
    · exact .inr ⟨outcomeOf v n, ho, outcomeOf_toNat_le v n, by rw [he, errdetOf_eq v n]⟩
  rw [ht]
  exact { hi with statusCode := Nat.zero_le 5, flags := hflags }

/-- The commit of a built instance meets the invariant (R100). -/
theorem inv_commit (hi : s.Inv) (hf : s.fault = false) {k : Nat} {c : CodeInstance} (hk : 1 ≤ k)
    (hm : s.config.kmax.admits k = true) (hb : buildCode k = some c) :
    (complete (commitCode c s)).Inv where
  faultClears h := by simp [hf] at h
  cleared := nofun
  built _ := ⟨k, c, hk, hm, hb, rfl⟩
  statusCode := Nat.zero_le 5
  flags := hi.flags

theorem inv_exec (hi : s.Inv) {i : Instr} (h : exec i s = .next t) : t.Inv := by
  obtain (⟨e, rfl⟩ | ⟨_, hr⟩) | ⟨hf, k, c, _, hk, hm, hb, rfl⟩ := exec_next h
  · exact inv_raise hi e
  · exact inv_resultsOnly hi hr
  · exact inv_commit hi hf hk hm hb

theorem inv_hostCommand (hi : s.Inv) {w : BitVec 16} {p : Ports}
    (h : hostCommand w p s = .next t) : t.Inv := by
  obtain ⟨_, ⟨i, _, h⟩ | ⟨_, ⟨_, rfl⟩ | ⟨_, rfl⟩⟩⟩ := hostCommand_next h
  · exact inv_exec hi h
  · exact inv_raise hi _
  · exact inv_raise hi _

theorem inv_hostRead (hi : s.Inv) {r : HostReg} (h : hostRead r s = .next t) : t.Inv := by
  obtain ⟨v, _, rfl⟩ | ⟨_, rfl⟩ := hostRead_next h
  · exact { hi with }
  · exact { hi with }

/-- Reset meets the invariant whatever the registers held (R170). -/
theorem inv_hostReset (s : State) : (hostReset s).Inv where
  faultClears := nofun
  cleared _ := ⟨rfl, rfl, rfl, rfl, rfl, rfl⟩
  built := nofun
  statusCode := Nat.zero_le 5
  flags := .inl ⟨rfl, rfl⟩

/-- The invariant does not speak of the host's script. -/
theorem inv_pending (hi : s.Inv) (rest : List HostAction) :
    ({ s with pending := rest } : State).Inv := { hi with }

/-- Settles O20: each of the four things a step can do keeps the invariant. -/
theorem stepKeepsInvariant : Obligations.StepKeepsInvariant := by
  intro s t hi h
  obtain ⟨_, rfl⟩ | ⟨w, p, rest, _, h⟩ | ⟨r, rest, _, h⟩ | ⟨rest, _, rfl⟩ := step_next h
  · exact hi
  · exact inv_hostCommand (inv_pending hi rest) h
  · exact inv_hostRead (inv_pending hi rest) h
  · exact inv_hostReset _

end Sys2Proof.Machine
end

section
/-! SUPPORT. Proofs about one command and one host read: what a command reads and what it writes
(10_state.md R31 to R37, R39), the faulted block (R24), host reads and the idle block (R21, R38). -/

namespace Sys2Proof.Machine

variable {s t : State}

/-! ### Host reads and the idle block -/

theorem readAs_of_val {α : Type} {r : Reg α} {x : α} (h : r = .val x) (f : α → Value) :
    readAs r f = .val (f x) := by rw [h, readAs]

/-- What a host read finds does not depend on the host's script. -/
theorem hostView_pending (r : HostReg) (s : State) (rest : List HostAction) :
    hostView r { s with pending := rest } = hostView r s := by cases r <;> rfl

theorem step_read_of_val {r : HostReg} {v : Value} {rest : List HostAction}
    (h : s.pending = .read r :: rest) (hv : hostView r s = .val v) :
    step s = .next { s with pending := rest, observed := s.observed ++ [⟨r, v⟩] } := by
  rw [step_read h, hostRead_of_val ((hostView_pending r s rest).trans hv)]
  rfl

/-- Settles O10: a read step observes what `hostView` finds in the register. -/
theorem hostReadHasNoSideEffect : Obligations.HostReadHasNoSideEffect := by
  intro s rest
  exact ⟨fun h => step_read_of_val h rfl,
    fun h => step_read_of_val h rfl,
    fun h => step_read_of_val h rfl,
    fun _ h hx => step_read_of_val h (readAs_of_val hx _),
    fun _ h hx => step_read_of_val h (readAs_of_val hx _),
    fun _ h hx => step_read_of_val h (readAs_of_val hx _),
    fun _ h hx => step_read_of_val h (readAs_of_val hx _),
    fun _ h hx => step_read_of_val h (readAs_of_val hx _),
    fun _ h hx => step_read_of_val h (readAs_of_val hx _),
    fun _ h hx => step_read_of_val h (readAs_of_val hx _),
    fun _ h hx => step_read_of_val h (readAs_of_val hx _),
    fun _ h hx => step_read_of_val h (readAs_of_val hx _),
    fun _ h hx => step_read_of_val h (readAs_of_val hx _)⟩

/-- Settles O11: the step of an empty script. -/
theorem idleBlockStays : Obligations.IdleBlockStays := fun _ => step_idle

/-! ### The faulted block -/

/-- The FAULT check comes first in every command, with or without an instance (R141). -/
theorem exec_of_fault (h : s.fault = true) (i : Instr) :
    exec i s = .next (raise .constructionError s) := by
  cases i <;> exact checked_of_fault h _

/-- Settles O12: every instruction raises ConstructionError, and FAULT is 1 already. -/
theorem faultedBlockOnlyRaises : Obligations.FaultedBlockOnlyRaises := by
  intro i s h
  rw [exec_of_fault h, raise_constructionError]
  simp [writeStatus, destroyCode, h]

/-! ### What a command reads and what it writes -/

/-- The two states hold the same instance registers (R23, R25 to R30). -/
structure SameInstance (s t : State) : Prop where
  valid : t.valid = s.valid
  k : t.k = s.k
  m : t.m = s.m
  n : t.n = s.n
  h : t.h = s.h
  g : t.g = s.g
  mask : t.mask = s.mask

/-- The two states agree on all a command reads: the instance registers, FAULT and the parameters. -/
structure SameInputs (s t : State) : Prop extends SameInstance s t where
  fault : t.fault = s.fault
  config : t.config = s.config

theorem SameInstance.refl (s : State) : SameInstance s s := ⟨rfl, rfl, rfl, rfl, rfl, rfl, rfl⟩

theorem SameInputs.refl (s : State) : SameInputs s s := ⟨.refl s, rfl, rfl⟩

theorem SameInstance.code (h : SameInstance s t) : t.code = s.code := by
  simp only [State.code, h.k, h.m, h.n, h.h, h.g, h.mask]

/-- The values a command gives to the result registers (R32 to R35); none where it gives none. -/
structure ResultWrites where
  dout : Option BitVector := none
  syn : Option BitVector := none
  synval : Option Nat := none
  errdet : Option Bool := none
  outcome : Option (BitVec 2) := none
  dvalid : Option Bool := none
  rval : Option Nat := none

/-- The register after an optional write. -/
def Reg.update {α : Type} (r : Reg α) (w : Option α) : Reg α :=
  match w with
  | none => r
  | some v => .val v

@[simp] theorem Reg.update_none {α : Type} (r : Reg α) : r.update none = r := rfl

/-- An optional write gives the same value to both registers or keeps both. -/
theorem Reg.update_same_or_kept {α : Type} (r r' : Reg α) (w : Option α) :
    r'.update w = r.update w ∨ (r.update w = r ∧ r'.update w = r') := by
  cases w with
  | none => exact .inr ⟨rfl, rfl⟩
  | some v => exact .inl rfl

/-- The writes done, each on its own register. -/
def ResultWrites.write (w : ResultWrites) (s : State) : State :=
  { s with
    dout := s.dout.update w.dout, syn := s.syn.update w.syn, synval := s.synval.update w.synval,
    errdet := s.errdet.update w.errdet, outcome := s.outcome.update w.outcome,
    dvalid := s.dvalid.update w.dvalid, rval := s.rval.update w.rval }

/-- The writes are within the instruction's write set (R32 to R35). -/
def ResultWrites.Within (w : ResultWrites) (i : Instr) : Prop :=
  match i with
  | .construct _ => w = {}
  | .decode _ => w.rval = none
  | .syndrome _ => w = { syn := w.syn, synval := w.synval }
  | .locate _ => w = { synval := w.synval, errdet := w.errdet, outcome := w.outcome, rval := w.rval }
  | .v2i _ => w = { rval := w.rval }
  | _ => w = { dout := w.dout }

/-- What a command does when it answers a next state, apart from the state it does it to. -/
inductive Effect where
  /-- It raises an error. -/
  | raises (e : Kind)
  /-- It completes and writes result registers. -/
  | writes (w : ResultWrites)
  /-- It completes and commits an instance. -/
  | commits (c : CodeInstance)

/-- The state after the effect. -/
def Effect.run (x : Effect) (s : State) : State :=
  match x with
  | .raises e => raise e s
  | .writes w => complete (w.write s)
  | .commits c => complete (commitCode c s)

/-- The effects an instruction can have in a state: only CONSTRUCT raises ConstructionError while
FAULT = 0, and only CONSTRUCT commits. -/
def Effect.Permitted (x : Effect) (i : Instr) (s : State) : Prop :=
  match x with
  | .raises e => e = .constructionError → s.fault = true ∨ ∃ k, i = .construct k
  | .writes w => w.Within i
  | .commits _ => ∃ k, i = .construct k

/-- Where the meaning `f` of i answers a next state on s, it has one permitted effect on every state with
the same inputs. -/
def Uniform (i : Instr) (s : State) (f : State → Result) : Prop :=
  ∀ t, f s = .next t →
    ∃ x : Effect, x.Permitted i s ∧ ∀ s', SameInputs s s' → f s' = .next (x.run s')

section
variable {i : Instr}

theorem Uniform.effect {x : Effect} (hx : x.Permitted i s) : Uniform i s fun s => .next (x.run s) :=
  fun _ _ => ⟨x, hx, fun _ _ => rfl⟩

theorem Uniform.raise {e : Kind} (he : e ≠ .constructionError) :
    Uniform i s fun s => .next (raise e s) := .effect (x := .raises e) fun h => absurd h he

theorem Uniform.writes {w : ResultWrites} (hw : w.Within i) :
    Uniform i s fun s => .next (complete (w.write s)) := .effect (x := .writes w) hw

theorem Uniform.dout {v : BitVector} (hw : ({ dout := some v } : ResultWrites).Within i) :
    Uniform i s fun s => .next (complete (writeDout v s)) := .writes hw

/-- A refusal answers no next state. -/
theorem Uniform.refused (r : Refusal) : Uniform i s fun _ => .refused r := fun _ h => nomatch h

/-- A branch on a condition of the inputs. -/
theorem Uniform.ite {p : State → Prop} [∀ s, Decidable (p s)] {f g : State → Result}
    (hp : ∀ s', SameInputs s s' → (p s' ↔ p s)) (hf : Uniform i s f) (hg : Uniform i s g) :
    Uniform i s fun s => if p s then f s else g s := by
  intro t h
  by_cases hs : p s
  · obtain ⟨x, hx, hr⟩ := hf t (by simpa [hs] using h)
    exact ⟨x, hx, fun s' he => by simpa [(hp s' he).2 hs] using hr s' he⟩
  · obtain ⟨x, hx, hr⟩ := hg t (by simpa [hs] using h)
    exact ⟨x, hx, fun s' he => by simpa [mt (hp s' he).1 hs] using hr s' he⟩

theorem Uniform.checked {f : State → Result} (hf : Uniform i s f) :
    Uniform i s fun s => checked s (f s) := by
  intro t h
  obtain ⟨hs, _⟩ | ⟨hs, h⟩ := checked_next h
  · exact ⟨.raises .constructionError, fun _ => .inl hs,
      fun s' he => checked_of_fault (he.fault.trans hs) _⟩
  · obtain ⟨x, hx, hr⟩ := hf t h
    exact ⟨x, hx, fun s' he => (checked_of_noFault (he.fault.trans hs) _).trans (hr s' he)⟩

theorem Uniform.withCode {f : CodeInstance → State → Result} (hf : ∀ c, Uniform i s (f c)) :
    Uniform i s fun s => withCode s fun c => f c s := by
  intro t h
  obtain ⟨hs, _⟩ | ⟨hs, hv, _⟩ | ⟨c, hc, h⟩ := withCode_next h
  · exact ⟨.raises .constructionError, fun _ => .inl hs,
      fun s' he => withCode_of_fault (he.fault.trans hs) _⟩
  · exact ⟨.raises .noInstance, nofun,
      fun s' he => withCode_of_noInstance (he.fault.trans hs) (he.valid.trans hv) _⟩
  · obtain ⟨x, hx, hr⟩ := hf c t h
    refine ⟨x, hx, fun s' he => (withCode_of_ready ?_ _).trans (hr s' he)⟩
    exact ⟨he.fault.trans hc.noFault, he.valid.trans hc.isValid, he.code.trans hc.holds⟩

end

/-- A raise under a condition on the operands and the instance alone, else a write of DOUT. -/
theorem Uniform.raise_or_dout {i : Instr} {p : Prop} [Decidable p] {e : Kind} {v : BitVector}
    (he : e ≠ .constructionError) (hw : ({ dout := some v } : ResultWrites).Within i) :
    Uniform i s fun s => if p then .next (Machine.raise e s) else .next (complete (writeDout v s)) :=
  .ite (fun _ _ => Iff.rfl) (.raise he) (.dout hw)

theorem uniform_construct (k : Nat) (s : State) : Uniform (.construct k) s (execConstruct k) := by
  refine .checked (.ite (fun _ he => by rw [he.config]) (.raise nofun) (.ite (fun _ _ => Iff.rfl) ?_ ?_))
  · exact .effect (x := .raises .constructionError) fun _ => .inr ⟨k, rfl⟩
  · cases buildCode k with
    | none => exact .effect (x := .raises .constructionError) fun _ => .inr ⟨k, rfl⟩
    | some c => exact .effect (x := .commits c) ⟨k, rfl⟩

theorem uniform_decode (da : BitVector) (s : State) : Uniform (.decode da) s (execDecode da) := by
  refine .withCode fun c => .ite (fun _ _ => Iff.rfl) (.raise nofun) ?_
  have hwrites (d : BitVector) (v : Nat) (b : Bool) :
      Uniform (.decode da) s fun s => .next (complete (writeDout d (writeDvalid b
        (writeFlags v c.n (writeSynval v (writeSyn (syndromeOf c da) s)))))) :=
    .writes (w := { dout := some d, dvalid := some b, errdet := some (errdetOf v),
                    outcome := some (outcomeOf v c.n), synval := some v,
                    syn := some (syndromeOf c da) }) rfl
  exact .ite (fun _ _ => Iff.rfl) (hwrites [] _ false) (hwrites _ _ true)

theorem uniform_locate (da : BitVector) (s : State) : Uniform (.locate da) s (execLocate da) := by
  refine .withCode fun c => .ite (fun _ _ => Iff.rfl) (.raise nofun) (.ite (fun _ _ => Iff.rfl) ?_ ?_)
  · exact .writes (w := { synval := some (uint da), errdet := some (errdetOf (uint da)),
                          outcome := some (outcomeOf (uint da) c.n), rval := some (uint da - 1) }) rfl
  · exact .writes (w := { synval := some (uint da), errdet := some (errdetOf (uint da)),
                          outcome := some (outcomeOf (uint da) c.n) }) rfl

theorem uniform_injrand (da : BitVector) (n : Nat) (e : BitVector) (s : State) :
    Uniform (.injrand da n e) s (execInjrand da n e) :=
  .checked (.ite (fun _ _ => Iff.rfl) (.raise nofun)
    (.ite (fun _ _ => Iff.rfl) (.dout rfl) (.refused _)))

theorem uniform_exec (i : Instr) (s : State) : Uniform i s (exec i) := by
  cases i with
  | construct k => exact uniform_construct k s
  | encode da => exact .withCode fun _ => .raise_or_dout nofun rfl
  | decode da => exact uniform_decode da s
  | syndrome da =>
    refine .withCode fun c => .ite (fun _ _ => Iff.rfl) (.raise nofun) ?_
    exact .writes (w := { synval := some (uint (syndromeOf c da)), syn := some (syndromeOf c da) }) rfl
  | locate da => exact uniform_locate da s
  | gf2mulG da => exact .withCode fun _ => .raise_or_dout nofun rfl
  | gf2mulHT da => exact .withCode fun _ => .raise_or_dout nofun rfl
  | gf2mulGHT =>
    exact .withCode fun _ => .ite (fun _ he => by rw [he.config]) (.raise nofun) (.dout rfl)
  | vadd da db => exact .checked (.raise_or_dout nofun rfl)
  | flip da p => exact .checked (.raise_or_dout nofun rfl)
  | injrand da n e => exact uniform_injrand da n e s
  | i2v x w => exact .checked (.ite (fun _ he => by rw [he.config]) (.raise nofun) (.dout rfl))
  | v2i da => exact .checked (.writes (w := { rval := some (uint da) }) rfl)
  | inspectHcol j => exact .withCode fun _ => .raise_or_dout nofun rfl
  | inspectGcol j => exact .withCode fun _ => .raise_or_dout nofun rfl
  | inspectGrow r => exact .withCode fun _ => .raise_or_dout nofun rfl
  | inspectHrow j => exact .withCode fun _ => .raise_or_dout nofun rfl
  | inspectMask => exact .withCode fun _ => .dout rfl

/-- All a command does, said once: it has one permitted effect, and the same on every state with the same
inputs. -/
theorem exec_effect {i : Instr} (h : exec i s = .next t) :
    ∃ x : Effect, x.Permitted i s ∧ t = x.run s ∧
      ∀ s', SameInputs s s' → exec i s' = .next (x.run s') := by
  obtain ⟨x, hx, hr⟩ := uniform_exec i s t h
  have ht := hr s (.refl s)
  rw [h] at ht
  cases ht
  exact ⟨x, hx, rfl, hr⟩

/-- The writes of an effect into the result registers: a raise and a commit have none. -/
def Effect.results (x : Effect) : ResultWrites :=
  match x with
  | .writes w => w
  | _ => {}

/-- An effect gives the result registers its writes and leaves what is no register of the block. -/
theorem Effect.run_frame (x : Effect) (s : State) :
    x.run s = { x.results.write s with
      valid := (x.run s).valid, fault := (x.run s).fault, k := (x.run s).k, m := (x.run s).m,
      n := (x.run s).n, h := (x.run s).h, g := (x.run s).g, mask := (x.run s).mask,
      status := (x.run s).status } := by
  cases x with
  | raises e => cases e <;> rfl
  | writes w => rfl
  | commits c => rfl

section
variable (x : Effect) (s : State)

theorem Effect.run_dout : (x.run s).dout = s.dout.update x.results.dout :=
  congrArg State.dout (x.run_frame s)
theorem Effect.run_syn : (x.run s).syn = s.syn.update x.results.syn :=
  congrArg State.syn (x.run_frame s)
theorem Effect.run_synval : (x.run s).synval = s.synval.update x.results.synval :=
  congrArg State.synval (x.run_frame s)
theorem Effect.run_errdet : (x.run s).errdet = s.errdet.update x.results.errdet :=
  congrArg State.errdet (x.run_frame s)
theorem Effect.run_outcome : (x.run s).outcome = s.outcome.update x.results.outcome :=
  congrArg State.outcome (x.run_frame s)
theorem Effect.run_dvalid : (x.run s).dvalid = s.dvalid.update x.results.dvalid :=
  congrArg State.dvalid (x.run_frame s)
theorem Effect.run_rval : (x.run s).rval = s.rval.update x.results.rval :=
  congrArg State.rval (x.run_frame s)

theorem Effect.run_host :
    (x.run s).config = s.config ∧ (x.run s).pending = s.pending ∧ (x.run s).observed = s.observed ∧
      (x.run s).modelFaults = s.modelFaults := by
  rw [x.run_frame s]
  exact ⟨rfl, rfl, rfl, rfl⟩

end

/-- The writes of a permitted effect are within the instruction's write set. -/
theorem Effect.Permitted.within {x : Effect} {i : Instr} (h : x.Permitted i s) :
    x.results.Within i := by
  cases x with
  | writes w => exact h
  | raises e => cases i <;> rfl
  | commits c => cases i <;> rfl

/-- A command that does not end with OK writes no result register (R142). -/
theorem Effect.results_of_status_ne {x : Effect} (h : (x.run s).status ≠ 0) : x.results = {} := by
  cases x with
  | raises e => rfl
  | writes w => exact absurd rfl h
  | commits c => exact absurd rfl h

/-- Settles O17: the writes lie within the instruction's write set, and there are none unless the
command ends with OK. -/
theorem resultRegisterFrame : Obligations.ResultRegisterFrame := by
  intro i s t h
  obtain ⟨x, hx, rfl, -⟩ := exec_effect h
  have hwithin := hx.within
  have hraised := x.results_of_status_ne (s := s)
  simp only [x.run_dout, x.run_syn, x.run_synval, x.run_errdet, x.run_outcome, x.run_dvalid,
    x.run_rval, x.run_host]
  generalize x.results = w at *
  obtain ⟨dout, syn, synval, errdet, outcome, dvalid, rval⟩ := w
  cases i <;> simp_all [ResultWrites.Within]

/-! ### What a command writes does not depend on the result registers -/

/-- An effect takes states with the same inputs to states with the same inputs. -/
theorem SameInputs.run (h : SameInputs s t) (x : Effect) : SameInputs (x.run s) (x.run t) := by
  cases x with
  | raises e =>
    by_cases he : e = .constructionError
    · subst he
      exact ⟨⟨rfl, rfl, rfl, rfl, rfl, rfl, rfl⟩, rfl, h.config⟩
    · simp only [Effect.run, raise_of_ne he]
      exact { h with }
  | writes w => exact { h with }
  | commits c => exact ⟨⟨rfl, rfl, rfl, rfl, rfl, rfl, rfl⟩, h.fault, h.config⟩

theorem Effect.run_status (x : Effect) (s t : State) : (x.run t).status = (x.run s).status := by
  cases x with
  | raises e => cases e <;> rfl
  | writes w => rfl
  | commits c => rfl

/-- Settles O18: the command has one and the same effect on both states. -/
theorem noCommandReadsResultRegisters : Obligations.NoCommandReadsResultRegisters := by
  intro i s s' t hv hf hk hm hn hh hg hmask hc h
  obtain ⟨x, -, rfl, hr⟩ := exec_effect h
  have he : SameInputs s s' := ⟨⟨hv, hk, hm, hn, hh, hg, hmask⟩, hf, hc⟩
  obtain ⟨⟨hv, hk, hm, hn, hh, hg, hmask⟩, hf, -⟩ := he.run x
  refine ⟨x.run s', hr s' he, x.run_status s s', hv, hf, hk, hm, hn, hh, hg, hmask, ?_⟩
  simp only [x.run_dout, x.run_syn, x.run_synval, x.run_errdet, x.run_outcome, x.run_dvalid,
    x.run_rval]
  exact ⟨Reg.update_same_or_kept .., Reg.update_same_or_kept .., Reg.update_same_or_kept ..,
    Reg.update_same_or_kept .., Reg.update_same_or_kept .., Reg.update_same_or_kept ..,
    Reg.update_same_or_kept ..⟩

/-! ### Only CONSTRUCT and reset write the instance registers -/

/-- Only the word 0x0001 presents CONSTRUCT (30_encoding.md R62). -/
theorem eq_of_decode_construct {w : BitVec 16} {p : Ports} {k : Nat}
    (h : decode w p = .ok (.construct k)) : w = 0x0001 := by
  unfold decode at h
  split at h
  · cases h
  rename_i hrsv
  have hfields : opcOf w = 1 ∧ selOf w = 0 := by
    unfold instrAt at h
    split at h
    case h_1 hopc hsel => exact ⟨hopc, hsel⟩
    case h_19 => split at h <;> cases h
    all_goals cases h
  apply BitVec.eq_of_toNat_eq
  simp only [rsvOf, opcOf, selOf] at hrsv hfields
  change w.toNat = 1
  omega

theorem kindCode_ne_zero (e : Kind) : kindCode e ≠ 0 := by cases e <;> decide

theorem raise_status (e : Kind) (s : State) : (raise e s).status = kindCode e := by cases e <;> rfl

/-- A faulted block has no instance to lose (R24). -/
theorem sameInstance_raise (hi : s.Inv) {e : Kind}
    (he : e = .constructionError → s.fault = true) : SameInstance s (Machine.raise e s) := by
  by_cases hc : e = .constructionError
  · have hv := hi.faultClears (he hc)
    obtain ⟨hk, hm, hn, hh, hg, hmask⟩ := hi.cleared hv
    subst hc
    exact ⟨hv.symm, hk.symm, hm.symm, hn.symm, hh.symm, hg.symm, hmask.symm⟩
  · rw [raise_of_ne hc]
    exact { SameInstance.refl s with }

theorem sameInstance_exec (hi : s.Inv) {i : Instr} (hne : ∀ k, i ≠ .construct k)
    (h : exec i s = .next t) : SameInstance s t := by
  obtain ⟨x, hx, rfl, -⟩ := exec_effect h
  cases x with
  | raises e => exact sameInstance_raise hi fun he => (hx he).resolve_right fun ⟨k, hk⟩ => hne k hk
  | writes w => exact { SameInstance.refl s with }
  | commits c =>
    obtain ⟨k, hk⟩ := hx
    exact absurd hk (hne k)

theorem sameInstance_hostCommand (hi : s.Inv) {w : BitVec 16} {p : Ports} (hw : w ≠ 0x0001)
    (h : hostCommand w p s = .next t) : SameInstance s t := by
  obtain ⟨_, ⟨i, hd, h⟩ | ⟨_, ⟨hf, rfl⟩ | ⟨_, rfl⟩⟩⟩ := hostCommand_next h
  · exact sameInstance_exec hi (fun k hk => hw (eq_of_decode_construct (hk ▸ hd))) h
  · exact sameInstance_raise hi fun _ => hf
  · exact sameInstance_raise hi nofun

theorem sameInstance_hostRead {r : HostReg} (h : hostRead r s = .next t) : SameInstance s t := by
  obtain ⟨v, _, rfl⟩ | ⟨_, rfl⟩ := hostRead_next h
  · exact { SameInstance.refl s with }
  · exact { SameInstance.refl s with }

theorem sameInstance_step (hi : s.Inv) (h : step s = .next t)
    (hreset : ∀ rest, s.pending ≠ .reset :: rest)
    (hconstruct : ∀ p rest, s.pending ≠ .command 0x0001 p :: rest) : SameInstance s t := by
  obtain ⟨_, rfl⟩ | ⟨w, p, rest, hp, h⟩ | ⟨r, rest, _, h⟩ | ⟨rest, hp, _⟩ := step_next h
  · exact .refl _
  · have hw : w ≠ 0x0001 := fun hw => hconstruct p rest (hw ▸ hp)
    exact { sameInstance_hostCommand (inv_pending hi rest) hw h with }
  · exact { sameInstance_hostRead h with }
  · exact absurd hp (hreset rest)

/-- Settles O16: no other step writes an instance register, and a CONSTRUCT that ends with OK is a
commit, since a raise writes a nonzero STATUS. -/
theorem onlyConstructWritesInstance : Obligations.OnlyConstructWritesInstance := by
  constructor
  · intro s t hi h hreset hconstruct
    obtain ⟨hv, hk, hm, hn, hh, hg, hmask⟩ := sameInstance_step hi h hreset hconstruct
    exact ⟨hv, hk, hm, hn, hh, hg, hmask⟩
  · intro k s t h h0
    obtain ⟨e, rfl⟩ | ⟨_, _, _, c, hc, rfl⟩ := execConstruct_next h
    · exact absurd ((raise_status e s).symm.trans h0) (kindCode_ne_zero e)
    · exact ⟨c, hc, rfl, rfl, rfl, rfl, rfl, rfl, rfl⟩

end Sys2Proof.Machine
end

section
/-! SUPPORT. Vectors and matrices given by their elements: every matrix operation of 00_scope.md R7 on a
matrix `BitMatrix.ofFn` is an `ofFn` again; and which numbers are powers of two (R9). -/

namespace Sys2Proof

/-! ### Vectors by their elements -/

theorem map_getD_range (v : BitVector) :
    ((List.range v.length).map fun i => v.getD i false) = v :=
  List.ext_getElem (by simp) fun i hi _ => by
    simp only [List.length_map, List.length_range] at hi
    simp [List.getD_eq_getElem?_getD, hi]

theorem map_getD_vec (w x : Nat) : ((List.range w).map fun i => (vec w x).getD i false) = vec w x := by
  simpa using map_getD_range (vec w x)

theorem getD_set {v : BitVector} {i j : Nat} (b : Bool) (hj : j < v.length) :
    (v.set i b).getD j false = if i = j then b else v.getD j false := by
  simp only [List.getD_eq_getElem?_getD, List.getElem?_set]
  split <;> simp_all

/-! ### Matrices by their entries -/

namespace BitMatrix

theorem ofFn_congr {r c : Nat} {f g : Nat → Nat → Bool} (h : ∀ i < r, ∀ j < c, f i j = g i j) :
    ofFn r c f = ofFn r c g := by
  have hrows : ((List.range r).map fun i => (List.range c).map fun j => f i j) =
      (List.range r).map fun i => (List.range c).map fun j => g i j :=
    List.map_congr_left fun i hi => List.map_congr_left fun j hj =>
      h i (List.mem_range.1 hi) j (List.mem_range.1 hj)
  rw [ofFn, ofFn, hrows]

theorem col_ofFn {r c j : Nat} (f : Nat → Nat → Bool) (hj : j < c) :
    (ofFn r c f).col j = (List.range r).map fun i => f i j := by
  simp only [col, ofFn, List.map_map]
  exact List.map_congr_left fun i _ => getD_map_range _ hj

/-- `[A | B]` (R7): the columns of A, then those of B. -/
theorem hcat_ofFn (r c d : Nat) (f g : Nat → Nat → Bool) :
    (ofFn r c f).hcat (ofFn r d g) = ofFn r (c + d) fun i j => if j < c then f i j else g i (j - c) := by
  simp only [hcat, ofFn, List.zipWith_map, List.zipWith_self, List.range_add, List.map_append,
    List.map_map]
  congr 1
  refine List.map_congr_left fun i _ => congrArg₂ _ (List.map_congr_left fun j hj => ?_)
    (List.map_congr_left fun j _ => ?_)
  · simp [List.mem_range.1 hj]
  · simp

theorem ofCols_eq_ofFn (r : Nat) (cs : List BitVector) :
    ofCols r cs = ofFn r cs.length fun i j => (cs.getD j []).getD i false := by
  simp only [ofCols, ofFn]
  congr 1
  refine List.map_congr_left fun i _ => List.ext_getElem (by simp) fun j hj _ => ?_
  simp only [List.length_map] at hj
  simp [List.getD_eq_getElem?_getD, hj]

theorem setCol_ofFn {r c : Nat} (f : Nat → Nat → Bool) (o : Nat) (g : Nat → Bool) :
    (ofFn r c f).setCol o ((List.range r).map g) =
      ofFn r c fun i j => if j = o then g i else f i j := by
  simp only [setCol, ofFn, List.zipWith_map, List.zipWith_self]
  congr 1
  refine List.map_congr_left fun i _ => List.ext_getElem (by simp) fun j _ _ => ?_
  simp [List.getElem_set, eq_comm]

end BitMatrix

/-- A product entry's integer sum, over the positions of the vector (R8). -/
theorem dotCol_eq_sum (v : BitVector) (b : BitMatrix) (j : Nat) :
    dotCol v b j = ∑ l ∈ Finset.range v.length, (v.getD l false).toNat * (b.entry l j).toNat := rfl

/-! ### Powers of two -/

theorem bitCount_eq_length (x : Nat) :
    bitCount x = ((List.range x).filter fun i => x.testBit i).length := by
  rw [bitCount, List.countP_eq_length_filter]
  simp only [Nat.testBit_eq_decide_div_mod_eq]
  rfl

/-- A number with exactly one bit set is the power of two of that bit's index (R9). -/
theorem pow2_iff {x : Nat} : pow2 x = true ↔ ∃ i, x = 2 ^ i := by
  constructor
  · intro h
    simp only [pow2, Bool.and_eq_true, beq_iff_eq, bitCount_eq_length] at h
    obtain ⟨a, ha⟩ := List.length_eq_one_iff.1 h.2
    have hbits (i : Nat) : i < x ∧ x.testBit i = true ↔ i = a := by
      simpa using congrArg (i ∈ ·) ha
    have hax := (hbits a).2 rfl
    refine ⟨a, Nat.eq_of_testBit_eq fun i => ?_⟩
    rw [Nat.testBit_two_pow, Bool.eq_iff_iff, decide_eq_true_iff]
    constructor
    · intro hi
      have hix : i < x := Nat.lt_of_lt_of_le Nat.lt_two_pow_self (Nat.ge_two_pow_of_testBit hi)
      exact ((hbits i).1 ⟨hix, hi⟩).symm
    · rintro rfl
      exact hax.2
  · rintro ⟨i, rfl⟩
    exact pow2_two_pow i

theorem vec_two_pow {m e : Nat} (he : e < m) :
    vec m (2 ^ e) = (List.range m).map fun i => i == m - 1 - e := by
  refine List.map_congr_left fun i hi => ?_
  have hi := List.mem_range.1 hi
  rw [bit_two_pow, Bool.eq_iff_iff, beq_iff_eq, beq_iff_eq]
  omega

theorem vec_injective {m x y : Nat} (hx : x < 2 ^ m) (hy : y < 2 ^ m) (h : vec m x = vec m y) :
    x = y := by
  rw [← uint_vec hx, h, uint_vec hy]

end Sys2Proof
end

section
/-! SUPPORT. The numbers of a Hamming code: the search of 41_construct.md R91, and which of the numbers
in [1, n] are powers of two (R93). -/

namespace Sys2Proof

namespace Machine

/-! ### The search of R91 -/

theorem deriveMFrom_minimal (k fuel m : Nat) :
    m ≤ deriveMFrom k fuel m ∧ ∀ j, m ≤ j → j < deriveMFrom k fuel m → 2 ^ j - j - 1 < k := by
  induction fuel generalizing m with
  | zero => exact ⟨Nat.le_refl m, fun j h1 h2 => absurd h2 (Nat.not_lt.2 h1)⟩
  | succ fuel ih =>
    unfold deriveMFrom
    split
    · rename_i hm
      obtain ⟨hle, hlt⟩ := ih (m + 1)
      refine ⟨by omega, fun j h1 h2 => ?_⟩
      obtain rfl | h1 := Nat.eq_or_lt_of_le h1
      · exact hm
      · exact hlt j h1 h2
    · exact ⟨Nat.le_refl m, fun j h1 h2 => absurd h2 (Nat.not_lt.2 h1)⟩

/-- The search stops at an m that is large enough, if the last m it can reach is. -/
theorem le_deriveMFrom {k fuel m : Nat} (h : k ≤ 2 ^ (m + fuel) - (m + fuel) - 1) :
    k ≤ 2 ^ deriveMFrom k fuel m - deriveMFrom k fuel m - 1 := by
  induction fuel generalizing m with
  | zero => exact h
  | succ fuel ih =>
    unfold deriveMFrom
    split
    · exact ih (by rwa [Nat.add_right_comm m 1, Nat.add_assoc])
    · rename_i hm
      exact Nat.not_lt.1 hm

theorem one_le_deriveM (k : Nat) : 1 ≤ deriveM k := (deriveMFrom_minimal k (k + 1) 1).1

theorem le_deriveM (k : Nat) : k ≤ 2 ^ deriveM k - deriveM k - 1 := by
  apply le_deriveMFrom
  have : k < 2 ^ k := Nat.lt_two_pow_self
  have : 2 ^ (1 + (k + 1)) = 4 * 2 ^ k := by ring
  omega

theorem lt_of_lt_deriveM {k j : Nat} (h1 : 1 ≤ j) (hj : j < deriveM k) : 2 ^ j - j - 1 < k :=
  (deriveMFrom_minimal k (k + 1) 1).2 j h1 hj

/-! ### The powers of two up to n -/

/-- The powers of two up to n are `2^0` to `2^(m-1)`: n has m bits. -/
def PowersBelow (m n : Nat) : Prop := ∀ i, 2 ^ i ≤ n ↔ i < m

theorem powersBelow_deriveM {k : Nat} (hk : 1 ≤ k) : PowersBelow (deriveM k) (deriveM k + k) := by
  have hm := one_le_deriveM k
  have hle := le_deriveM k
  have hself : deriveM k < 2 ^ deriveM k := Nat.lt_two_pow_self
  have hlow : 2 ^ (deriveM k - 1) ≤ deriveM k + k := by
    obtain h1 | h1 := Nat.eq_or_lt_of_le hm
    · rw [← h1]; omega
    · have := lt_of_lt_deriveM (k := k) (j := deriveM k - 1) (by omega) (by omega)
      omega
  intro i
  constructor
  · intro hi
    have : 2 ^ i < 2 ^ deriveM k := by omega
    exact (Nat.pow_lt_pow_iff_right (by decide)).1 this
  · intro hi
    exact (Nat.pow_le_pow_right (by decide) (by omega)).trans hlow

theorem PowersBelow.lt {m n : Nat} (h : PowersBelow m n) : n < 2 ^ m :=
  Nat.not_le.1 fun hn => Nat.lt_irrefl m ((h m).1 hn)

/-- The column indexes below n whose 1-indexed number is no power of two (R93), ascending. -/
def infoPositions (n : Nat) : List Nat := (List.range n).filter fun c => !pow2 (c + 1)

theorem infoNumbers_eq (n : Nat) : infoNumbers n = (infoPositions n).map (· + 1) := by
  rw [infoNumbers, List.filter_map]; rfl

theorem mem_infoPositions {n c : Nat} : c ∈ infoPositions n ↔ c < n ∧ pow2 (c + 1) = false := by
  simp [infoPositions]

/-- The other positions are `2^0 - 1` to `2^(m-1) - 1`. -/
theorem length_filter_pow2 {m n : Nat} (h : PowersBelow m n) :
    ((List.range n).filter fun c => pow2 (c + 1)).length = m := by
  have hperm : ((List.range n).filter fun c => pow2 (c + 1)).Perm
      ((List.range m).map fun i => 2 ^ i - 1) := by
    refine (List.perm_ext_iff_of_nodup (List.nodup_range.filter _) ?_).2 fun c => ?_
    · refine List.nodup_range.map_on fun i _ j _ hij => ?_
      have hi := Nat.two_pow_pos i
      have hj := Nat.two_pow_pos j
      exact Nat.pow_right_injective (Nat.le_refl 2) (by simp only; omega)
    · simp only [List.mem_filter, List.mem_range, pow2_iff, List.mem_map]
      constructor
      · rintro ⟨hc, i, hi⟩
        exact ⟨i, (h i).1 (by omega), by omega⟩
      · rintro ⟨i, hi, rfl⟩
        have := (h i).2 hi
        have := Nat.two_pow_pos i
        exact ⟨by omega, i, by omega⟩
  simpa using hperm.length_eq

theorem length_infoPositions {m n : Nat} (h : PowersBelow m n) :
    m + (infoPositions n).length = n := by
  have := List.length_eq_length_filter_add (l := List.range n) fun c => pow2 (c + 1)
  rw [length_filter_pow2 h, List.length_range] at this
  exact this.symm

theorem length_infoPositions_deriveM {k : Nat} (hk : 1 ≤ k) :
    (infoPositions (deriveM k + k)).length = k := by
  have := length_infoPositions (powersBelow_deriveM hk)
  omega

/-- At most m of the numbers up to `c <= n` are powers of two. -/
theorem le_length_infoPositions {m n c : Nat} (h : PowersBelow m n) (hc : c ≤ n) :
    c ≤ m + (infoPositions c).length := by
  have hsub := ((List.range_sublist.2 hc).filter fun c => pow2 (c + 1)).length_le
  have := List.length_eq_length_filter_add (l := List.range c) fun c => pow2 (c + 1)
  rw [length_filter_pow2 h] at hsub
  rw [List.length_range] at this
  simp only [infoPositions]
  omega

/-- An information position stands in the list after the ones below it. -/
theorem getElem?_infoPositions {n c : Nat} (hc : c ∈ infoPositions n) :
    (infoPositions n)[(infoPositions c).length]? = some c := by
  obtain ⟨hn, hp⟩ := mem_infoPositions.1 hc
  have hsucc : infoPositions (c + 1) = infoPositions c ++ [c] := by
    simp [infoPositions, List.range_succ, hp]
  have hprefix : infoPositions (c + 1) <+: infoPositions n := by
    refine List.IsPrefix.filter _ ?_
    obtain ⟨d, rfl⟩ := Nat.exists_eq_add_of_le hn
    rw [List.range_add (n := c + 1) (m := d)]
    exact List.prefix_append ..
  rw [List.prefix_iff_getElem?.1 hprefix _ (by simp [hsucc])]
  simp [hsucc]

end Machine

end Sys2Proof
end

section
/-! SUPPORT. The instance CONSTRUCT builds (41_construct.md R92 to R98): where each column of H stands in
the systemized matrix, and from that the record, the generator and the mask in closed form. -/

namespace Sys2Proof.Machine

variable {m n c : Nat}

/-! ### The place of a column -/

/-- The place in S of the column with the value c + 1: the powers of two stand first, the greatest of them
at place 0, and the other numbers follow in order (R93). -/
def colPlace (m c : Nat) : Nat :=
  if pow2 (c + 1) then m - 1 - Nat.log2 (c + 1) else m + (infoPositions c).length

theorem colPlace_of_pow {e : Nat} (he : c + 1 = 2 ^ e) : colPlace m c = m - 1 - e := by
  simp [colPlace, he, pow2_two_pow]

theorem colPlace_of_info (hp : pow2 (c + 1) = false) : colPlace m c = m + (infoPositions c).length := by
  simp [colPlace, hp]

/-- The parity columns stand in the first m places and the information columns after them. -/
theorem le_colPlace_iff (h : PowersBelow m n) (hc : c < n) :
    m ≤ colPlace m c ↔ pow2 (c + 1) = false := by
  cases hp : pow2 (c + 1) with
  | false => simp [colPlace_of_info hp]
  | true =>
    obtain ⟨e, he⟩ := pow2_iff.1 hp
    have : e < m := (h e).1 (by omega)
    rw [colPlace_of_pow he]
    exact ⟨fun hle => absurd hle (by omega), nofun⟩

/-- The information columns stand no lower in S than in H (R95). -/
theorem le_colPlace (h : PowersBelow m n) (hc : c < n) (hp : pow2 (c + 1) = false) :
    c ≤ colPlace m c := by
  rw [colPlace_of_info hp]
  exact le_length_infoPositions h (Nat.le_of_lt hc)

theorem colPlace_lt (h : PowersBelow m n) (hc : c < n) : colPlace m c < n := by
  have hn := length_infoPositions h
  cases hp : pow2 (c + 1) with
  | false =>
    have hget := getElem?_infoPositions (mem_infoPositions.2 ⟨hc, hp⟩)
    obtain ⟨hlt, _⟩ := List.getElem?_eq_some_iff.1 hget
    rw [colPlace_of_info hp]
    omega
  | true =>
    have := mt (le_colPlace_iff h hc).1 (by simp [hp])
    omega

/-! ### The columns of H and S -/

/-- Column c of H is `vec_m(c + 1)` (R92). -/
theorem col_parity (hc : c < n) : (parity m n).col c = vec m (c + 1) := by
  rw [parity, BitMatrix.col_ofFn _ hc]
  exact map_getD_vec m (c + 1)

theorem colval_parity (h : PowersBelow m n) (hc : c < n) : (parity m n).colval c = c + 1 := by
  have := h.lt
  rw [BitMatrix.colval, col_parity hc, uint_vec (by omega)]

/-- The bit of Q in row i of its column r: column r is `vec_m(q_r)` (R93). -/
def infoBit (m n i r : Nat) : Bool := (vec m ((infoPositions n).getD r 0 + 1)).getD i false

/-- The bit of `S = [I_m | Q]` (R93). -/
def systemBit (m n i j : Nat) : Bool := if j < m then i == j else infoBit m n i (j - m)

theorem nonPowerColumns_parity (h : PowersBelow m n) :
    nonPowerColumns (parity m n) = .ofFn m (infoPositions n).length (infoBit m n) := by
  have hfilter : ((List.range n).filter fun c => !pow2 ((parity m n).colval c)) = infoPositions n :=
    List.filter_congr fun c hc => by rw [colval_parity h (List.mem_range.1 hc)]
  have hcols : (infoPositions n).map (parity m n).col = (infoPositions n).map fun c => vec m (c + 1) :=
    List.map_congr_left fun c hc => col_parity (mem_infoPositions.1 hc).1
  change BitMatrix.ofCols m (((List.range n).filter fun c => !pow2 ((parity m n).colval c)).map _) = _
  rw [hfilter, hcols, BitMatrix.ofCols_eq_ofFn, List.length_map]
  refine BitMatrix.ofFn_congr fun i _ r hr => ?_
  simp [infoBit, List.getD_eq_getElem?_getD, hr]

theorem systemize_parity (h : PowersBelow m n) :
    (systemize (parity m n)).1 = .ofFn m n (systemBit m n) := by
  change (BitMatrix.identity m).hcat (nonPowerColumns (parity m n)) = _
  rw [nonPowerColumns_parity h, BitMatrix.identity, BitMatrix.hcat_ofFn, length_infoPositions h]
  rfl

/-- S holds column c of H at its place (R93). -/
theorem col_systemize_colPlace (h : PowersBelow m n) (hc : c < n) :
    (systemize (parity m n)).1.col (colPlace m c) = vec m (c + 1) := by
  rw [systemize_parity h, BitMatrix.col_ofFn _ (colPlace_lt h hc)]
  cases hp : pow2 (c + 1) with
  | false =>
    have hget : (infoPositions n).getD (infoPositions c).length 0 = c := by
      simp [List.getD_eq_getElem?_getD, getElem?_infoPositions (mem_infoPositions.2 ⟨hc, hp⟩)]
    simp only [colPlace_of_info hp, systemBit, infoBit, Nat.not_lt.2 (Nat.le_add_right m _), if_false,
      Nat.add_sub_cancel_left, hget]
    exact map_getD_vec m (c + 1)
  | true =>
    obtain ⟨e, he⟩ := pow2_iff.1 hp
    have hem : e < m := (h e).1 (by omega)
    have hlt : m - 1 - e < m := by omega
    simp only [colPlace_of_pow he, systemBit, hlt, if_true]
    rw [he, vec_two_pow hem]

theorem colPlace_injOn (h : PowersBelow m n) :
    Set.InjOn (colPlace m) (Finset.range n : Set Nat) := by
  intro c hc d hd hcd
  have hc := Finset.mem_range.1 hc
  have hd := Finset.mem_range.1 hd
  have hn := h.lt
  have hvec : vec m (c + 1) = vec m (d + 1) := by
    rw [← col_systemize_colPlace h hc, hcd, col_systemize_colPlace h hd]
  exact Nat.succ.inj (vec_injective (by omega) (by omega) hvec)

theorem colPlace_mapsTo (h : PowersBelow m n) :
    Set.MapsTo (colPlace m) (Finset.range n : Set Nat) (Finset.range n : Set Nat) := fun _ hc =>
  Finset.mem_range.2 (colPlace_lt h (Finset.mem_range.1 hc))

/-- The places of the columns are all the places (R94). -/
theorem colPlace_surjOn (h : PowersBelow m n) :
    Set.SurjOn (colPlace m) (Finset.range n : Set Nat) (Finset.range n : Set Nat) :=
  Finset.surjOn_of_injOn_of_card_le _ (colPlace_mapsTo h) (colPlace_injOn h) (Nat.le_refl _)

/-- Column c of H stands at exactly one place of S (R94). -/
theorem col_systemize_eq_iff (h : PowersBelow m n) (hc : c < n) {f : Nat} (hf : f < n) :
    (systemize (parity m n)).1.col f = (parity m n).col c ↔ f = colPlace m c := by
  rw [col_parity hc]
  constructor
  · intro hcol
    obtain ⟨d, hd, rfl⟩ := colPlace_surjOn h (Finset.mem_range.2 hf)
    have hd := Finset.mem_range.1 hd
    have hn := h.lt
    rw [col_systemize_colPlace h hd] at hcol
    rw [Nat.succ.inj (vec_injective (by omega) (by omega) hcol)]
  · rintro rfl
    exact col_systemize_colPlace h hc

/-! ### The record -/

theorem findCol_parity (h : PowersBelow m n) (hc : c < n) :
    findCol (systemize (parity m n)).1 ((parity m n).col c) = some (colPlace m c) := by
  have hcols : (systemize (parity m n)).1.cols = n := by rw [systemize_parity h]; rfl
  have hlt := colPlace_lt h hc
  rw [findCol, hcols, List.find?_range_eq_some]
  refine ⟨by simpa using (col_systemize_eq_iff h hc hlt).2 rfl, List.mem_range.2 hlt, fun f hf => ?_⟩
  have := mt (col_systemize_eq_iff h hc (hf.trans hlt)).1 (Nat.ne_of_lt hf)
  simpa using this

/-- The original indexes of the columns that move (R94), ascending. -/
def movedColumns (m n : Nat) : List Nat := (List.range n).filter fun c => colPlace m c != c

theorem mem_movedColumns : c ∈ movedColumns m n ↔ c < n ∧ colPlace m c ≠ c := by
  simp [movedColumns]

theorem recordFrom_parity (h : PowersBelow m n) {cs : List Nat} (hcs : ∀ c ∈ cs, c < n) :
    recordFrom (parity m n) (systemize (parity m n)).1 cs =
      some ((cs.filter fun c => colPlace m c != c).map fun c => (c, colPlace m c)) := by
  induction cs with
  | nil => rfl
  | cons c cs ih =>
    have hc : c < n := hcs c (by simp)
    have ih := ih fun d hd => hcs d (by simp [hd])
    rw [recordFrom, ih]
    by_cases hp : colPlace m c = c
    · rw [if_pos ((col_systemize_eq_iff h hc hc).2 hp.symm)]
      simp [hp]
    · rw [if_neg (mt (col_systemize_eq_iff h hc hc).1 (Ne.symm hp)), findCol_parity h hc]
      simp [hp]

/-- The lookups never fail, and the record lists the columns that move with their places (R94). -/
theorem record_parity (h : PowersBelow m n) :
    record (parity m n) (systemize (parity m n)).1 =
      some ((movedColumns m n).map fun c => (c, colPlace m c)) :=
  recordFrom_parity h fun _ hc => List.mem_range.1 hc

/-! ### The generator -/

theorem foldl_setCol {r : Nat} (place : Nat → Nat) (f g : Nat → Nat → Bool) (cs : List Nat) :
    cs.foldl (fun (a : BitMatrix) o => a.setCol o ((List.range r).map fun i => f i (place o)))
      (.ofFn r n g) = BitMatrix.ofFn r n fun i j => if j ∈ cs then f i (place j) else g i j := by
  induction cs generalizing g with
  | nil => simp
  | cons o cs ih =>
    rw [List.foldl_cons, BitMatrix.setCol_ofFn, ih]
    refine BitMatrix.ofFn_congr fun i _ j _ => ?_
    by_cases hj : j ∈ cs
    · simp [hj]
    · by_cases ho : j = o <;> simp [hj, ho]

/-- Every column of G is the column of G_std at its place (R97): a column that does not move has its own
index for place. -/
theorem generator_movedColumns (h : PowersBelow m n) (r : Nat) (f : Nat → Nat → Bool) :
    generator (.ofFn r n f) ((movedColumns m n).map fun c => (c, colPlace m c)) =
      .ofFn r n fun i j => f i (colPlace m j) := by
  have hcol : ∀ (a : BitMatrix), ∀ c ∈ movedColumns m n,
      a.setCol c ((BitMatrix.ofFn r n f).col (colPlace m c)) =
        a.setCol c ((List.range r).map fun i => f i (colPlace m c)) := fun a c hc => by
    rw [BitMatrix.col_ofFn _ (colPlace_lt h (mem_movedColumns.1 hc).1)]
  rw [generator, List.foldl_map, List.foldl_ext _ _ _ hcol, foldl_setCol]
  refine BitMatrix.ofFn_congr fun i _ j hj => ?_
  by_cases hp : colPlace m j = j <;> simp [mem_movedColumns, hj, hp]

/-- The bit of `G_std = [Q^T | I_k]` (R96). -/
def standardBit (m n r j : Nat) : Bool := if j < m then infoBit m n j r else r == j - m

theorem standardGenerator_parity (h : PowersBelow m n) :
    standardGenerator (systemize (parity m n)).2 (infoPositions n).length =
      .ofFn (infoPositions n).length n (standardBit m n) := by
  change (nonPowerColumns (parity m n)).transpose.hcat (.identity (infoPositions n).length) = _
  rw [nonPowerColumns_parity h, BitMatrix.transpose, BitMatrix.identity, rows_ofFn, cols_ofFn,
    BitMatrix.hcat_ofFn, length_infoPositions h]
  refine BitMatrix.ofFn_congr fun r hr j _ => ?_
  by_cases hj : j < m <;> simp [standardBit, hj, hr]

/-- An entry of H is the entry of S at the column's place. -/
theorem entry_parity (h : PowersBelow m n) {i : Nat} (hi : i < m) (hc : c < n) :
    (parity m n).entry i c = systemBit m n i (colPlace m c) := by
  rw [← getD_col, ← (col_systemize_eq_iff h hc (colPlace_lt h hc)).2 rfl, getD_col,
    systemize_parity h, entry_ofFn _ hi (colPlace_lt h hc)]

/-- `G_std x2 S^T`: both halves of the sum give the same bit of Q, so their sum is even (R101). -/
theorem sum_standardBit_systemBit (h : PowersBelow m n) {r i : Nat} (hr : r < (infoPositions n).length)
    (hi : i < m) :
    ∑ j ∈ Finset.range n, (standardBit m n r j).toNat * (systemBit m n i j).toNat =
      (infoBit m n i r).toNat + (infoBit m n i r).toNat := by
  rw [← length_infoPositions h, Finset.sum_range_add, length_infoPositions h]
  congr 1
  · rw [Finset.sum_eq_single_of_mem i (Finset.mem_range.2 hi)]
    · simp [standardBit, systemBit, hi]
    · intro j hj hne
      simp [systemBit, Finset.mem_range.1 hj, hne.symm]
  · rw [Finset.sum_eq_single_of_mem r (Finset.mem_range.2 hr)]
    · simp [standardBit, systemBit]
    · intro j _ hne
      simp [standardBit, hne.symm]

/-- `G x2 H^T = 0` (R101): the columns of G and H are those of G_std and S in one and the same order. -/
theorem matMul_generator_parity (h : PowersBelow m n) :
    matMul (.ofFn (infoPositions n).length n fun r j => standardBit m n r (colPlace m j))
      (parity m n).transpose =
      ⟨(infoPositions n).length, m, List.replicate (infoPositions n).length (zeroVec m)⟩ := by
  have hrow (r : Nat) (hr : r < (infoPositions n).length) :
      vecMul ((List.range n).map fun j => standardBit m n r (colPlace m j)) (parity m n).transpose =
        zeroVec m := by
    have hentry (i : Nat) (hi : i < m) :
        dotCol ((List.range n).map fun j => standardBit m n r (colPlace m j))
          (parity m n).transpose i = (infoBit m n i r).toNat + (infoBit m n i r).toNat := by
      rw [dotCol_eq_sum, List.length_map, List.length_range, ← sum_standardBit_systemBit h hr hi]
      refine Finset.sum_nbij (colPlace m) (colPlace_mapsTo h) (colPlace_injOn h) (colPlace_surjOn h)
        fun c hc => ?_
      have hc := Finset.mem_range.1 hc
      rw [getD_map_range _ hc, entry_transpose hi hc, entry_parity h hi hc]
    refine List.eq_replicate_iff.2 ⟨by simp [parity], fun b hb => ?_⟩
    obtain ⟨i, hi, rfl⟩ := List.mem_map.1 hb
    rw [hentry i (List.mem_range.1 hi), fix_add, Bool.xor_self]
  simp only [matMul, BitMatrix.ofFn, List.map_map]
  congr 1
  refine List.eq_replicate_iff.2 ⟨by simp, fun b hb => ?_⟩
  obtain ⟨r, hr, rfl⟩ := List.mem_map.1 hb
  exact hrow r (List.mem_range.1 hr)

/-! ### The mask -/

/-- One pair of the record on the mask: the original index becomes an information position, and the place
does not stay one (R98). -/
def markColumn (m : Nat) (v : BitVector) (c : Nat) : BitVector :=
  (v.set c true).set (colPlace m c) false

/-- The marks of columns in ascending order that all move up: a place cleared for one column is not
marked before. -/
theorem getD_foldl_markColumn {cs : List Nat} (hsorted : cs.Pairwise (· < ·))
    (hup : ∀ c ∈ cs, c < colPlace m c) {v : BitVector} {x : Nat} (hx : x < v.length) :
    (cs.foldl (markColumn m) v).getD x false = true ↔
      x ∈ cs ∨ (v.getD x false = true ∧ ∀ c ∈ cs, colPlace m c ≠ x) := by
  induction cs generalizing v with
  | nil => simp
  | cons c cs ih =>
    obtain ⟨hlt, hsorted⟩ := List.pairwise_cons.1 hsorted
    have hc : c < colPlace m c := hup c (by simp)
    have hupcs (d : Nat) (hd : d ∈ cs) : c < colPlace m d :=
      (hlt d hd).trans (hup d (by simp [hd]))
    rw [List.foldl_cons, ih hsorted (fun d hd => hup d (by simp [hd])) (by simpa [markColumn] using hx),
      markColumn, getD_set _ (by simpa using hx), getD_set _ hx]
    by_cases hxc : c = x
    · subst hxc
      have hne : ∀ d ∈ cs, colPlace m d ≠ c := fun d hd => (hupcs d hd).ne'
      simpa [hc.ne'] using Or.inr (a := c ∈ cs) hne
    · by_cases hxp : colPlace m c = x
      · simp [hxp, Ne.symm hxc]
      · simp [hxp, hxc, Ne.symm hxc]

/-- The record acts on the mask through the information columns that move (R98). -/
theorem infoMask_movedColumns (m n k : Nat) :
    infoMask ((movedColumns m n).map fun c => (c, colPlace m c)) m k =
      ((movedColumns m n).filter fun c => m ≤ colPlace m c).foldl (markColumn m)
        (zeroVec m ++ List.replicate k true) := by
  rw [infoMask, List.foldl_map, List.foldl_filter]
  simp only [decide_eq_true_eq]
  rfl

theorem getD_initialMask {m k x : Nat} (hx : x < m + k) :
    (zeroVec m ++ List.replicate k true).getD x false = true ↔ m ≤ x := by
  obtain h | h := Nat.lt_or_ge x m
  · simp [List.getD_eq_getElem?_getD, List.getElem?_append, zeroVec, h, Nat.not_le.2 h]
  · have : x - m < k := by omega
    simp [List.getD_eq_getElem?_getD, List.getElem?_append, zeroVec, h, Nat.not_lt.2 h, this]

/-- The mask is 1 exactly at the positions whose number is no power of two (R102). -/
theorem getD_infoMask (h : PowersBelow m n) {x : Nat} (hx : x < n) :
    (infoMask ((movedColumns m n).map fun c => (c, colPlace m c)) m
      (infoPositions n).length).getD x false = true ↔ pow2 (x + 1) = false := by
  have hmem (c : Nat) : c ∈ (movedColumns m n).filter (fun c => m ≤ colPlace m c) ↔
      c < n ∧ colPlace m c ≠ c ∧ pow2 (c + 1) = false := by
    simp only [List.mem_filter, mem_movedColumns, decide_eq_true_eq, and_assoc]
    exact and_congr_right fun hc => and_congr_right fun _ => le_colPlace_iff h hc
  have hup (c : Nat) (hc : c ∈ (movedColumns m n).filter fun c => m ≤ colPlace m c) :
      c < colPlace m c := by
    obtain ⟨hcn, hne, hp⟩ := (hmem c).1 hc
    exact Nat.lt_of_le_of_ne (le_colPlace h hcn hp) hne.symm
  have hsorted : ((movedColumns m n).filter fun c => m ≤ colPlace m c).Pairwise (· < ·) :=
    (List.pairwise_lt_range.filter _).filter _
  have hxn : x < m + (infoPositions n).length := by rwa [length_infoPositions h]
  rw [infoMask_movedColumns, getD_foldl_markColumn hsorted hup (by simpa using hxn),
    getD_initialMask hxn, hmem]
  constructor
  · rintro (⟨-, -, hp⟩ | ⟨hmx, hfree⟩)
    · exact hp
    · obtain ⟨c, hc, rfl⟩ := colPlace_surjOn h (Finset.mem_range.2 hx)
      have hc := Finset.mem_range.1 hc
      have hp := (le_colPlace_iff h hc).1 hmx
      have hstays : colPlace m c = c := by
        by_contra hne
        exact hfree c ((hmem c).2 ⟨hc, hne, hp⟩) rfl
      rwa [hstays]
  · intro hp
    by_cases hne : colPlace m x = x
    · refine .inr ⟨hne ▸ (le_colPlace_iff h hx).2 hp, fun c hc hcx => ?_⟩
      obtain ⟨hcn, hmoves, -⟩ := (hmem c).1 hc
      have := colPlace_injOn h (Finset.mem_range.2 hcn) (Finset.mem_range.2 hx) (hcx.trans hne.symm)
      exact hmoves (this ▸ hcx)
    · exact .inl ⟨hx, hne, hp⟩

/-! ### The built instance -/

/-- The instance the rules build for k, with its generator in closed form. -/
theorem eq_of_buildCode {k : Nat} (hk : 1 ≤ k) {c : CodeInstance} (hb : buildCode k = some c) :
    popcount c.mask = k ∧
      c = { k := k, m := deriveM k, n := deriveM k + k,
            h := parity (deriveM k) (deriveM k + k),
            g := .ofFn k (deriveM k + k) fun r j =>
              standardBit (deriveM k) (deriveM k + k) r (colPlace (deriveM k) j),
            mask := infoMask ((movedColumns (deriveM k) (deriveM k + k)).map
              fun c => (c, colPlace (deriveM k) c)) (deriveM k) k } := by
  have hpow := powersBelow_deriveM hk
  have hgen := standardGenerator_parity hpow
  rw [length_infoPositions_deriveM hk] at hgen
  simp only [buildCode, record_parity hpow, hgen, generator_movedColumns hpow] at hb
  split at hb
  · rename_i hpop
    cases hb
    exact ⟨hpop, rfl⟩
  · cases hb

/-- R101 for the built instance. -/
theorem matMul_of_buildCode {k : Nat} (hk : 1 ≤ k) {c : CodeInstance} (hb : buildCode k = some c) :
    matMul c.g c.h.transpose = ⟨k, c.m, List.replicate k (zeroVec c.m)⟩ := by
  have hmul := matMul_generator_parity (powersBelow_deriveM hk)
  rw [length_infoPositions_deriveM hk] at hmul
  obtain ⟨-, rfl⟩ := eq_of_buildCode hk hb
  exact hmul

/-- R102 for the built instance. -/
theorem getD_mask_of_buildCode {k : Nat} (hk : 1 ≤ k) {c : CodeInstance} (hb : buildCode k = some c)
    {x : Nat} (hx : x < c.n) : c.mask.getD x false = true ↔ pow2 (x + 1) = false := by
  obtain ⟨-, rfl⟩ := eq_of_buildCode hk hb
  have hmask := getD_infoMask (powersBelow_deriveM hk) hx
  rwa [length_infoPositions_deriveM hk] at hmask

/-- Settles O41: the registers hold an instance CONSTRUCT built, whose m comes from the search of R91,
whose H is the parity matrix, and whose G and mask are those of R101 and R102. -/
theorem instanceRegistersFormACode : Obligations.InstanceRegistersFormACode := by
  intro s hi hv
  obtain ⟨k, c, hk, _, hb, hcode⟩ := hi.built hv
  obtain ⟨hsk, hsm, hsn, hsh, hsg, hsmask⟩ := code_eq_some hcode
  have hmul := matMul_of_buildCode hk hb
  have hmask (x : Nat) (hx : x < c.n) : c.mask.getD x false = true ↔ ¬ ∃ i, x + 1 = 2 ^ i := by
    rw [getD_mask_of_buildCode hk hb hx, ← pow2_iff, Bool.not_eq_true]
  obtain ⟨hpop, rfl⟩ := eq_of_buildCode hk hb
  exact ⟨_, _, _, _, _, _, hsk, hsm, hsn, hsh, hsg, hsmask, hk, one_le_deriveM k, le_deriveM k,
    fun _ => lt_of_lt_deriveM, rfl, fun _ => colval_parity (powersBelow_deriveM hk), hmul, hpop, hmask⟩

end Sys2Proof.Machine
end

section
/-! SUPPORT. Proofs about the presented command (20_memory.md R49, 30_encoding.md R60, R67). -/

namespace Sys2Proof.Machine

/-- A presentable command whose word decodes runs its instruction (R60, R67). -/
theorem hostCommand_of_ok {s : State} {w : BitVec 16} {p : Ports} {i : Instr}
    (hp : p.presentable s.config = true) (hd : decode w p = .ok i) : hostCommand w p s = exec i s := by
  rw [hostCommand, if_pos hp, hd]

/-- Settles O4: the step is the command on the state with its action taken off the script, and the
parameters that bound the ports are the same there. -/
theorem stepRunsDecodedCommand : Obligations.StepRunsDecodedCommand := by
  intro s w p rest i hs hp hd
  rw [step_command hs]
  exact hostCommand_of_ok hp hd

end Sys2Proof.Machine
end

section
/-! SUPPORT. Proofs about the command word (30_encoding.md R60 to R67): the decoder and the encoder are
inverse on the words of R62, which are the legal ones, and the moves the host does not have. -/

namespace Sys2Proof

variable {p : Ports} {i : Instr}

/-! ### The command word and its fields (R60, R62) -/

/-- RSV, SEL and OPC make up the whole word (R60). -/
theorem eq_of_fields_eq {w v : BitVec 16} (hrsv : rsvOf w = rsvOf v) (hopc : opcOf w = opcOf v)
    (hsel : selOf w = selOf v) : w = v := by
  apply BitVec.eq_of_toNat_eq
  have hw := w.isLt
  have hv := v.isLt
  simp only [rsvOf, opcOf, selOf] at hrsv hopc hsel
  omega

theorem encodeWord_mem_legalWords (i : Instr) : (encodeWord i).toNat ∈ legalWords := by
  cases i <;> simp [encodeWord, legalWords]

/-- The fields of the 18 CMD values are RSV = 0 and the 18 pairs. -/
theorem fields_of_mem_legalWords :
    ∀ x ∈ legalWords, x / 256 = 0 ∧ (x % 16, x / 16 % 16) ∈ legalPairs := by decide

theorem rsvOf_encodeWord (i : Instr) : rsvOf (encodeWord i) = 0 := by
  simp [rsvOf, (fields_of_mem_legalWords _ (encodeWord_mem_legalWords i)).1]

/-- A word that decodes has RSV = 0 and its instruction in the table of R62. -/
theorem decode_eq_ok {w : BitVec 16} :
    decode w p = .ok i ↔ rsvOf w = 0 ∧ instrAt p (opcOf w) (selOf w) = .ok i := by
  by_cases hrsv : rsvOf w = 0 <;> simp [decode, hrsv]

/-! ### Decoder and encoder -/

/-- The row of the table in which an instruction stands is the one its own word names, and the
instruction's operands come from the ports. -/
theorem encodeWord_of_instrAt {opc sel : Nat} (h : instrAt p opc sel = .ok i) :
    opcOf (encodeWord i) = opc ∧ selOf (encodeWord i) = sel ∧ i.readFrom p := by
  unfold instrAt at h
  split at h
  case h_19 => split at h <;> cases h
  all_goals cases h; simp [encodeWord, opcOf, selOf, Instr.readFrom]

/-- An instruction's own word decodes to it on any ports that present its operands. -/
theorem decode_encodeWord (h : i.readFrom p) : decode (encodeWord i) p = .ok i := by
  cases i <;> simp only [encodeWord]
  case gf2mulGHT | inspectMask => rfl
  case vadd | flip | i2v => obtain ⟨rfl, rfl⟩ := h; rfl
  case injrand => obtain ⟨rfl, rfl, rfl⟩ := h; rfl
  all_goals cases h; rfl

theorem readFrom_encodePorts (i : Instr) : i.readFrom (encodePorts i) := by
  cases i
  case gf2mulGHT | inspectMask => trivial
  case vadd | flip | i2v => exact ⟨rfl, rfl⟩
  case injrand => exact ⟨rfl, rfl, rfl⟩
  all_goals rfl

theorem decode_eq_ok_iff_encodeWord {w : BitVec 16} :
    decode w p = .ok i ↔ w = encodeWord i ∧ i.readFrom p := by
  constructor
  · intro h
    obtain ⟨hrsv, hrow⟩ := decode_eq_ok.mp h
    obtain ⟨hopc, hsel, hread⟩ := encodeWord_of_instrAt hrow
    exact ⟨eq_of_fields_eq (hrsv.trans (rsvOf_encodeWord i).symm) hopc.symm hsel.symm, hread⟩
  · rintro ⟨rfl, hread⟩
    exact decode_encodeWord hread

/-- Settles O3: the word's three fields determine it, and both tables agree row by row. -/
theorem decodeEncodeAgree : Obligations.DecodeEncodeAgree :=
  ⟨fun _ _ _ => decode_eq_ok_iff_encodeWord, fun i => decode_encodeWord (readFrom_encodePorts i)⟩

/-- Settles O1: each word of the table is the encoder's word of its instruction. -/
theorem tableWordsDecode : Obligations.TableWordsDecode := fun p =>
  ⟨decode_encodeWord (i := .construct p.arg) rfl,
   decode_encodeWord (i := .encode p.da) rfl,
   decode_encodeWord (i := .decode p.da) rfl,
   decode_encodeWord (i := .syndrome p.da) rfl,
   decode_encodeWord (i := .locate p.da) rfl,
   decode_encodeWord (i := .gf2mulG p.da) rfl,
   decode_encodeWord (i := .gf2mulHT p.da) rfl,
   decode_encodeWord (i := .gf2mulGHT) trivial,
   decode_encodeWord (i := .vadd p.da p.db) ⟨rfl, rfl⟩,
   decode_encodeWord (i := .flip p.da p.arg) ⟨rfl, rfl⟩,
   decode_encodeWord (i := .injrand p.da p.arg p.draw) ⟨rfl, rfl, rfl⟩,
   decode_encodeWord (i := .i2v p.arg p.argb) ⟨rfl, rfl⟩,
   decode_encodeWord (i := .v2i p.da) rfl,
   decode_encodeWord (i := .inspectHcol p.arg) rfl,
   decode_encodeWord (i := .inspectGcol p.arg) rfl,
   decode_encodeWord (i := .inspectGrow p.arg) rfl,
   decode_encodeWord (i := .inspectHrow p.arg) rfl,
   decode_encodeWord (i := .inspectMask) trivial⟩

/-! ### The legal words (R63) -/

/-- Every pair of R62 is a row of the decoder's table. -/
theorem exists_instrAt_of_mem_legalPairs (p : Ports) :
    ∀ r ∈ legalPairs, ∃ i, instrAt p r.1 r.2 = .ok i := by
  simp [legalPairs, instrAt]

/-- Settles O2: a word that decodes is the word of an instruction and so one of the 18 values; these
have RSV = 0 and a pair of R62; and such a word decodes by its row. -/
theorem legalWordsAreTheTable : Obligations.LegalWordsAreTheTable := by
  refine ⟨fun w p => ?_, by decide, by decide⟩
  have hvalue : (∃ i, decode w p = .ok i) → w.toNat ∈ legalWords := by
    rintro ⟨i, hi⟩
    rw [(decode_eq_ok_iff_encodeWord.mp hi).1]
    exact encodeWord_mem_legalWords i
  have hrow : w.toNat / 256 = 0 ∧ (w.toNat % 16, w.toNat / 16 % 16) ∈ legalPairs →
      ∃ i, decode w p = .ok i := by
    rintro ⟨hrsv, hpair⟩
    obtain ⟨i, hi⟩ := exists_instrAt_of_mem_legalPairs p _ hpair
    exact ⟨i, decode_eq_ok.mpr ⟨by simp [rsvOf, hrsv], hi⟩⟩
  exact ⟨⟨hvalue, fun h => hrow (fields_of_mem_legalWords _ h)⟩,
    fun h => fields_of_mem_legalWords _ (hvalue h), hrow⟩

end Sys2Proof

namespace Sys2Proof.Machine

/-! ### The moves the host does not have (R67, 60_exceptions.md R161) -/

theorem hostCommand_of_not_presentable {s : State} {p : Ports} (hp : p.presentable s.config = false)
    (w : BitVec 16) : hostCommand w p s = .refused .operandBeyondPorts := by
  simp [hostCommand, hp]

theorem presentable_bounded {a l lat : Nat} {b : Bound} {p : Ports} :
    p.presentable ⟨b, .atMost l, .bits a, lat⟩ = true ↔
      p.arg < 2 ^ a ∧ p.argb < 2 ^ a ∧ p.da.length ≤ l ∧ p.db.length ≤ l := by
  simp [Ports.presentable, PortWidth.fits, Bound.admits, and_assoc]

theorem exec_injrand_outsideSet {s : State} {da e : BitVector} {t : Nat} (hf : s.fault = false)
    (ht : t ≤ da.length) (he : inDrawSet t da.length e = false) :
    exec (.injrand da t e) s = .refused .drawOutsideSet := by
  change execInjrand da t e s = _
  rw [execInjrand, checked_of_noFault hf, if_neg (by omega), if_neg (by simp [he])]

/-- Settles O7: a command's operands are checked against the ports before its word is decoded, and
INJRAND's draw once its count is in range. -/
theorem missingMovesAreRefused : Obligations.MissingMovesAreRefused := by
  refine ⟨fun s w p rest hs hp => ?_, fun _ _ _ _ _ => presentable_bounded, fun _ _ _ => rfl,
    fun _ _ _ _ => exec_injrand_outsideSet⟩
  rw [step_command hs]
  exact hostCommand_of_not_presentable (s := { s with pending := rest }) hp w

end Sys2Proof.Machine
end

section
/-! SUPPORT. Proofs about the bit-vector utilities and error injection (40_bitvector.md R80 to R85): the
corner cases of vec and uint, the GF(2) sum as an XOR that undoes itself, and what each of the five
commands does in each of its cases. -/

namespace Sys2Proof

/-! ### Zeros and ones under uint and vec (R80, R81) -/

/-- Leading zeros carry no value (R81). -/
theorem uint_zeroVec_append (z : Nat) (v : BitVector) : uint (zeroVec z ++ v) = uint v := by
  induction z with
  | zero => rfl
  | succ z ih =>
    calc uint (zeroVec (z + 1) ++ v) = uint (false :: (zeroVec z ++ v)) := rfl
      _ = uint v := by simp [uint_cons, ih]

@[simp] theorem uint_zeroVec (l : Nat) : uint (zeroVec l) = 0 := by
  simpa using uint_zeroVec_append l []

/-- `l` ones are worth `2^(l-1) + ... + 1` (R81). -/
theorem uint_replicate_true (l : Nat) : uint (List.replicate l true) = 2 ^ l - 1 := by
  induction l with
  | zero => rfl
  | succ l ih =>
    have hpos := Nat.two_pow_pos l
    calc uint (List.replicate (l + 1) true) = 2 ^ l + (2 ^ l - 1) := by
          simp [List.replicate_succ, uint_cons, ih]
      _ = 2 ^ (l + 1) - 1 := by rw [Nat.pow_succ]; omega

/-- The value 0 has no bit set (R80): `vec` undoes `uint` on the zero vector. -/
theorem vec_zero (w : Nat) : vec w 0 = zeroVec w := by simpa using vec_uint (zeroVec w)

/-- The largest value of w bits has all of them set (R80): `vec` undoes `uint` on the ones. -/
theorem vec_two_pow_sub_one (w : Nat) : vec w (2 ^ w - 1) = List.replicate w true := by
  simpa [uint_replicate_true] using vec_uint (List.replicate w true)

/-! ### The GF(2) sum (R82) -/

theorem xor_zeroVec (v : BitVector) : List.zipWith Bool.xor v (zeroVec v.length) = v :=
  List.ext_getElem (by simp) fun i _ _ => by simp [zeroVec]

theorem gfAdd_zeroVec (v : BitVector) : gfAdd v (zeroVec v.length) = v := by
  rw [gfAdd_eq_xor, xor_zeroVec]

theorem gfAdd_self (v : BitVector) : gfAdd v v = zeroVec v.length := by
  simp [gfAdd_eq_xor, zeroVec, List.zipWith_self, List.map_const']

theorem gfAdd_assoc (u v w : BitVector) : gfAdd (gfAdd u v) w = gfAdd u (gfAdd v w) :=
  List.ext_getElem (by simp [Nat.min_assoc]) fun i _ _ => by simp [gfAdd_eq_xor]

/-- A pattern added twice is gone (R82). -/
theorem gfAdd_gfAdd_cancel {u v : BitVector} (h : u.length = v.length) : gfAdd (gfAdd u v) v = u := by
  rw [gfAdd_assoc, gfAdd_self, ← h, gfAdd_zeroVec]

/-! ### The draw set of INJRAND (R84) -/

theorem inDrawSet_zero {l : Nat} {e : BitVector} : inDrawSet 0 l e = true ↔ e = zeroVec l :=
  beq_iff_eq

theorem inDrawSet_one {l : Nat} {e : BitVector} :
    inDrawSet 1 l e = true ↔ ∃ p < l, e = unitVec l p := by
  simp [inDrawSet]

theorem inDrawSet_of_two_le {t l : Nat} {e : BitVector} (ht : 2 ≤ t) :
    inDrawSet t l e = true ↔ e.length = l ∧ popcount e ≤ t := by
  obtain ⟨t, rfl⟩ := Nat.exists_eq_add_of_le' ht
  simp [inDrawSet]

end Sys2Proof

namespace Sys2Proof.Machine

variable {s : State} {da db e : BitVector} {x w p t : Nat}

/-! ### The commands, case by case -/

/-- I2V of a value that fits (R80). -/
theorem exec_i2v_of_fits (hf : s.fault = false) (hw : s.config.lmax.admits w = true) (hx : x < 2 ^ w) :
    exec (.i2v x w) s = .next (complete (writeDout (vec w x) s)) :=
  (checked_of_noFault hf _).trans (if_neg (by simp [hw, hx]))

/-- I2V of a width above LMAX or of a value that does not fit (R80). -/
theorem exec_i2v_range (hf : s.fault = false) (h : s.config.lmax.admits w = false ∨ 2 ^ w ≤ x) :
    exec (.i2v x w) s = .next (raise .range s) :=
  (checked_of_noFault hf _).trans (if_pos h)

/-- V2I has no error case of its own (R81). -/
theorem exec_v2i (hf : s.fault = false) :
    exec (.v2i da) s = .next (complete (writeRval (uint da) s)) :=
  checked_of_noFault hf _

/-- VADD of two vectors of one length (R82). -/
theorem exec_vadd_of_length_eq (hf : s.fault = false) (h : da.length = db.length) :
    exec (.vadd da db) s = .next (complete (writeDout (gfAdd da db) s)) :=
  (checked_of_noFault hf _).trans (if_neg (not_not.2 h))

theorem exec_vadd_lengthMismatch (hf : s.fault = false) (h : da.length ≠ db.length) :
    exec (.vadd da db) s = .next (raise .lengthMismatch s) :=
  (checked_of_noFault hf _).trans (if_pos h)

/-- FLIP at a position of the word adds the unit vector of that position (R83). -/
theorem exec_flip_of_lt (hf : s.fault = false) (h : p < da.length) :
    exec (.flip da p) s = .next (complete (writeDout (gfAdd da (unitVec da.length p)) s)) :=
  (checked_of_noFault hf _).trans (if_neg (Nat.not_le.2 h))

theorem exec_flip_range (hf : s.fault = false) (h : da.length ≤ p) :
    exec (.flip da p) s = .next (raise .range s) :=
  (checked_of_noFault hf _).trans (if_pos h)

/-- INJRAND adds any draw of the set (R84). -/
theorem exec_injrand_of_draw (hf : s.fault = false) (ht : t ≤ da.length)
    (he : inDrawSet t da.length e = true) :
    exec (.injrand da t e) s = .next (complete (writeDout (gfAdd da e) s)) :=
  (checked_of_noFault hf _).trans ((if_neg (Nat.not_lt.2 ht)).trans (if_pos he))

/-- INJRAND of more errors than the word has bits, whatever the draw (R84). -/
theorem exec_injrand_range (hf : s.fault = false) (ht : da.length < t) :
    exec (.injrand da t e) s = .next (raise .range s) :=
  (checked_of_noFault hf _).trans (if_pos ht)

/-! ### The statements -/

/-- Settles O25: the two cases of I2V exclude each other, and its corner words are `vec` of the value of
the zeros and of the ones. -/
theorem i2vConverts : Obligations.I2vConverts :=
  ⟨fun _ => decode_encodeWord (i := .i2v _ _) ⟨rfl, rfl⟩,
    fun _ _ _ hf => ⟨exec_i2v_of_fits hf, exec_i2v_range hf⟩, vec_two_pow_sub_one, vec_zero⟩

/-- Settles O26: V2I has one case, and the corner values are by induction on the length. -/
theorem v2iConverts : Obligations.V2iConverts :=
  ⟨fun _ => decode_encodeWord (i := .v2i _) rfl, fun _ _ => exec_v2i, uint_nil, uint_zeroVec_append,
    uint_replicate_true, uint_lt⟩

/-- Settles O27: the GF(2) sum is the XOR, and it is associative with every vector its own inverse. -/
theorem vaddAddsThePattern : Obligations.VaddAddsThePattern := by
  refine ⟨fun _ => decode_encodeWord (i := .vadd _ _) ⟨rfl, rfl⟩, fun s da db hf => ?_,
    fun v => ⟨gfAdd_zeroVec v, gfAdd_self v⟩, fun _ _ => gfAdd_gfAdd_cancel⟩
  rw [← gfAdd_eq_xor]
  exact ⟨exec_vadd_of_length_eq hf, exec_vadd_lengthMismatch hf⟩

/-- Settles O28: adding the unit vector of p sets bit p to its inverse and keeps the others. -/
theorem flipInvertsOneBit : Obligations.FlipInvertsOneBit := by
  refine ⟨fun _ => decode_encodeWord (i := .flip _ _) ⟨rfl, rfl⟩, fun s da p hf =>
    ⟨fun hp => ?_, exec_flip_range hf⟩⟩
  rw [← gfAdd_unitVec hp]
  exact exec_flip_of_lt hf hp

/-- Settles O29: INJRAND adds the draw as VADD adds its pattern, on the three draw sets of the rule. -/
theorem injrandAddsItsDraw : Obligations.InjrandAddsItsDraw := by
  refine ⟨fun _ => decode_encodeWord (i := .injrand _ _ _) ⟨rfl, rfl, rfl⟩, fun s da e t hf => ?_,
    fun _ _ => inDrawSet_zero, fun _ _ => inDrawSet_one, fun _ _ _ => inDrawSet_of_two_le, xor_zeroVec⟩
  rw [← gfAdd_eq_xor]
  exact ⟨exec_injrand_of_draw hf, exec_injrand_range hf⟩

/-- Settles O30: a faulted block raises the same error for both; any other writes the same sum, the unit
pattern having the word's length. -/
theorem flipIsVaddOfUnit : Obligations.FlipIsVaddOfUnit := by
  intro s da p hp
  cases hf : s.fault with
  | true => rw [exec_of_fault hf, exec_of_fault hf]
  | false => rw [exec_flip_of_lt hf hp, exec_vadd_of_length_eq hf (length_unitVec _ _).symm]

end Sys2Proof.Machine
end

section
/-! SUPPORT. Facts of 00_scope.md that the laws of the construction need: the ones of a
vector (R9), a unit vector times a matrix (R8), writes to different columns (R7). -/

namespace Sys2Proof

theorem popcount_eq_length_filter (v : BitVector) :
    popcount v = ((List.range v.length).filter fun i => v.getD i false).length := by
  calc popcount v = popcount ((List.range v.length).map fun i => v.getD i false) := by
        rw [map_getD_range]
    _ = _ := by rw [popcount, List.countP_map, List.countP_eq_length_filter]; rfl

/-- `e_r x2 B` is row r of B: only term r of each sum is not 0 (R8, R9). -/
theorem vecMul_unitVec {k n r : Nat} (f : Nat → Nat → Bool) (hr : r < k) :
    vecMul (unitVec k r) (.ofFn k n f) = (BitMatrix.ofFn k n f).row r := by
  have hrow : (BitMatrix.ofFn k n f).row r = (List.range n).map fun j => f r j := by
    simp [BitMatrix.row, BitMatrix.ofFn, List.getD_eq_getElem?_getD, hr]
  rw [hrow]
  refine List.map_congr_left fun j hj => ?_
  have hj : j < n := List.mem_range.1 hj
  have hdot : dotCol (unitVec k r) (.ofFn k n f) j = (f r j).toNat := by
    rw [dotCol_eq_sum, length_unitVec, Finset.sum_eq_single_of_mem r (Finset.mem_range.2 hr)]
    · simp [-List.getD_eq_getElem?_getD, getD_unitVec hr, hr, hj]
    · intro l hl hne
      simp [-List.getD_eq_getElem?_getD, getD_unitVec (Finset.mem_range.1 hl), hne]
  rw [hdot]
  cases f r j <;> rfl

/-- Writes to two different columns may be done in either order. -/
theorem BitMatrix.setCol_comm {i j : Nat} (h : i ≠ j) (a : BitMatrix) (u v : BitVector) :
    (a.setCol i u).setCol j v = (a.setCol j v).setCol i u := by
  simp only [setCol, BitMatrix.mk.injEq, true_and]
  refine List.ext_getElem (by simp; omega) fun l _ _ => ?_
  simp [List.set_comm _ _ h]

end Sys2Proof
end

section
/-! SUPPORT. The information positions one by one (41_construct.md R93, R95), and the ranges of k and n that
the search of R91 gives. -/

namespace Sys2Proof.Machine

variable {m n r : Nat}

/-! ### The r-th information position -/

theorem nodup_infoPositions (n : Nat) : (infoPositions n).Nodup := List.nodup_range.filter _

/-- The r-th information position, the index `q_r - 1` (R95). -/
def infoPosition (n r : Nat) : Nat := (infoPositions n).getD r 0

theorem infoNumber_eq (hr : r < (infoPositions n).length) : infoNumber n r = infoPosition n r + 1 := by
  simp [infoNumber, infoNumbers_eq, infoPosition, List.getD_eq_getElem?_getD, hr]

theorem infoPosition_mem (hr : r < (infoPositions n).length) : infoPosition n r ∈ infoPositions n := by
  simp [infoPosition, List.getD_eq_getElem?_getD, hr]

theorem infoPosition_lt (hr : r < (infoPositions n).length) : infoPosition n r < n :=
  (mem_infoPositions.1 (infoPosition_mem hr)).1

/-- An information position is the r-th when r information positions are below it. -/
theorem eq_infoPosition_iff {c : Nat} (hc : c ∈ infoPositions n) (hr : r < (infoPositions n).length) :
    c = infoPosition n r ↔ r = (infoPositions c).length := by
  obtain ⟨hlt, hget⟩ := List.getElem?_eq_some_iff.1 (getElem?_infoPositions hc)
  have hpos : infoPosition n r = (infoPositions n)[r] := by
    simp [infoPosition, List.getD_eq_getElem?_getD, hr]
  rw [hpos, eq_comm (a := r), ← (nodup_infoPositions n).getElem_inj_iff (hi := hlt) (hj := hr), hget]

/-! ### The ranges of k and n (R91) -/

theorem two_le_deriveM {k : Nat} (hk : 1 ≤ k) : 2 ≤ deriveM k := by
  have h1 := one_le_deriveM k
  have hle := le_deriveM k
  by_contra hlt
  rw [show deriveM k = 1 by omega] at hle
  omega

theorem monotone_two_pow_sub_self : Monotone fun m => 2 ^ m - m :=
  monotone_nat_of_le_succ fun m => by
    have : m < 2 ^ m := Nat.lt_two_pow_self
    rw [Nat.pow_succ]
    omega

/-- k lies above what m - 1 bits are enough for (R91). -/
theorem two_pow_sub_lt_of_deriveM {k : Nat} (hk : 1 ≤ k) : 2 ^ (deriveM k - 1) - deriveM k < k := by
  have := two_le_deriveM hk
  have := lt_of_lt_deriveM (k := k) (j := deriveM k - 1) (by omega) (by omega)
  omega

/-- The ranges of k that different m serve do not meet (R91). -/
theorem eq_deriveM_of_range {k : Nat} (hm : 2 ≤ m) (hlow : 2 ^ (m - 1) - m + 1 ≤ k)
    (hhigh : k ≤ 2 ^ m - m - 1) : m = deriveM k := by
  obtain hlt | heq | hgt := Nat.lt_trichotomy m (deriveM k)
  · have := lt_of_lt_deriveM (k := k) (j := m) (by omega) hlt
    omega
  · exact heq
  · have hmono : 2 ^ deriveM k - deriveM k ≤ 2 ^ (m - 1) - (m - 1) :=
      monotone_two_pow_sub_self (Nat.le_sub_one_of_lt hgt)
    have := le_deriveM k
    omega

/-- Settles O31: the search of R91 stops at the first m that is large enough, and the sizes of the m
before it bound k and n from below. -/
theorem derivedMIsMinimal : Obligations.DerivedMIsMinimal := by
  intro k hk
  have hlow := two_pow_sub_lt_of_deriveM hk
  have hle := le_deriveM k
  have hself : deriveM k < 2 ^ deriveM k := Nat.lt_two_pow_self
  have hpred : deriveM k - 1 < 2 ^ (deriveM k - 1) := Nat.lt_two_pow_self
  exact ⟨two_le_deriveM hk, hle, fun j => lt_of_lt_deriveM, fun m => eq_deriveM_of_range, hlow,
    by omega, by omega⟩

end Sys2Proof.Machine
end

section
/-! SUPPORT. Proofs about CONSTRUCT and what it builds (41_construct.md R90 to R105): its cases, then the
parity matrix, the systemized matrix, the record, the generator and the mask. -/

namespace Sys2Proof.Machine

variable {m n c : Nat} {s t : State}

/-! ### The mask and the success of the construction -/

theorem length_infoMask (p : List (Nat × Nat)) (m k : Nat) : (infoMask p m k).length = m + k := by
  suffices hfold : ∀ v : BitVector, (p.foldl (fun mk of =>
      if m ≤ of.2 then (mk.set of.1 true).set of.2 false else mk) v).length = v.length by
    simp [infoMask, hfold]
  intro v
  induction p generalizing v with
  | nil => rfl
  | cons of p ih =>
    rw [List.foldl_cons, ih]
    split <;> simp

/-- The mask's ones, in order (R102). -/
theorem filter_infoMask (h : PowersBelow m n) :
    ((List.range n).filter fun i => (infoMask ((movedColumns m n).map fun c => (c, colPlace m c)) m
      (infoPositions n).length).getD i false) = infoPositions n :=
  List.filter_congr fun i hi => by
    rw [Bool.eq_iff_iff, getD_infoMask h (List.mem_range.1 hi), Bool.not_eq_true']

theorem popcount_infoMask (h : PowersBelow m n) :
    popcount (infoMask ((movedColumns m n).map fun c => (c, colPlace m c)) m
      (infoPositions n).length) = (infoPositions n).length := by
  rw [popcount_eq_length_filter, length_infoMask, length_infoPositions h, filter_infoMask h]

/-- Neither the lookup of R94 nor the check of R99 fails (R105). -/
theorem exists_buildCode {k : Nat} (hk : 1 ≤ k) : ∃ c, buildCode k = some c := by
  have hpop := popcount_infoMask (powersBelow_deriveM hk)
  rw [length_infoPositions_deriveM hk] at hpop
  simp only [buildCode, record_parity (powersBelow_deriveM hk), hpop, if_true]
  exact ⟨_, rfl⟩

/-! ### CONSTRUCT -/

theorem exec_construct_of_built {k : Nat} {c : CodeInstance} (hf : s.fault = false) (hk : 1 ≤ k)
    (hm : s.config.kmax.admits k = true) (hb : buildCode k = some c) :
    exec (.construct k) s = .next (complete (commitCode c s)) := by
  change execConstruct k s = _
  rw [execConstruct, checked_of_noFault hf, if_neg (by simp [hm]), if_neg (by omega), hb]

theorem exec_construct_range {k : Nat} (hf : s.fault = false) (hm : s.config.kmax.admits k = false) :
    exec (.construct k) s = .next (raise .range s) :=
  (checked_of_noFault hf _).trans (if_pos hm)

theorem admits_zero (b : Bound) : b.admits 0 = true := by cases b <;> simp [Bound.admits]

theorem exec_construct_zero (hf : s.fault = false) :
    exec (.construct 0) s = .next (raise .constructionError s) := by
  change execConstruct 0 s = _
  rw [execConstruct, checked_of_noFault hf, if_neg (by simp [admits_zero]), if_pos Nat.zero_lt_one]

/-- Settles O32: the rules build a code for every k >= 1, and CONSTRUCT ends with the commit of it, or
with Range above KMAX, neither of which is STATUS 1. -/
theorem constructCommits : Obligations.ConstructCommits := by
  refine ⟨fun s k hf hk hm => ?_, fun s t k hf h hst => ?_⟩
  · obtain ⟨c, hb⟩ := exists_buildCode hk
    obtain ⟨-, rfl⟩ := eq_of_buildCode hk hb
    exact ⟨_, hb, rfl, rfl, rfl, rfl, exec_construct_of_built hf hk hm hb⟩
  · by_contra hk
    cases hm : s.config.kmax.admits k with
    | false =>
      cases (exec_construct_range hf hm).symm.trans h
      cases hst
    | true =>
      have hk : 1 ≤ k := Nat.one_le_iff_ne_zero.2 hk
      obtain ⟨c, hb⟩ := exists_buildCode hk
      cases (exec_construct_of_built hf hk hm hb).symm.trans h
      cases hst

/-- Settles O33: every bound admits 0, so CONSTRUCT 0 passes the check of KMAX and fails that of R90. -/
theorem constructRejects : Obligations.ConstructRejects :=
  ⟨fun _ => exec_construct_zero, fun _ _ => exec_construct_range⟩

/-! ### H -/

/-- Settles O34: the built H is the parity matrix, and the value j + 1 of its column j is neither 0 nor that
of another column. -/
theorem parityColumnsCount : Obligations.ParityColumnsCount := by
  intro k c hk hb
  have hpow := powersBelow_deriveM hk
  obtain ⟨-, rfl⟩ := eq_of_buildCode hk hb
  have hval {j : Nat} (hj : j < deriveM k + k) := colval_parity hpow hj
  refine ⟨rfl, rfl, fun j hj => ⟨col_parity hj, hval hj, fun hz => ?_⟩, fun i hi j hj => ?_,
    fun i hi j hj hij => ?_⟩
  · have := hval hj
    rw [BitMatrix.colval, hz, uint_zeroVec] at this
    omega
  · exact entry_ofFn _ hi hj
  · have : i + 1 = j + 1 := by rw [← hval hi, ← hval hj, BitMatrix.colval, hij, BitMatrix.colval]
    omega

/-! ### S and Q -/

/-- The identity block of S holds the powers of two, the greatest first (R93). -/
theorem col_systemize_pow (h : PowersBelow m n) {e : Nat} (he : e < m) :
    (systemize (parity m n)).1.col (m - 1 - e) = vec m (2 ^ e) := by
  have hpos := Nat.two_pow_pos e
  have hc : 2 ^ e - 1 + 1 = 2 ^ e := by omega
  have hn := (h e).2 he
  rw [← colPlace_of_pow hc, col_systemize_colPlace h (by omega), hc]

/-- The place of the r-th information column is m + r (R95). -/
theorem colPlace_infoPosition {r : Nat} (hr : r < (infoPositions n).length) :
    colPlace m (infoPosition n r) = m + r := by
  have hmem := infoPosition_mem hr
  rw [colPlace_of_info (mem_infoPositions.1 hmem).2, ← (eq_infoPosition_iff hmem hr).1 rfl]

/-- S holds `vec_m(q_r)` at m + r (R93). -/
theorem col_systemize_info (h : PowersBelow m n) {r : Nat} (hr : r < (infoPositions n).length) :
    (systemize (parity m n)).1.col (m + r) = vec m (infoPosition n r + 1) := by
  rw [← colPlace_infoPosition hr, col_systemize_colPlace h (infoPosition_lt hr)]

/-- Column r of Q is `vec_m(q_r)` (R93). -/
theorem col_systemize_snd (h : PowersBelow m n) {r : Nat} (hr : r < (infoPositions n).length) :
    (systemize (parity m n)).2.col r = vec m (infoPosition n r + 1) := by
  change (nonPowerColumns (parity m n)).col r = _
  rw [nonPowerColumns_parity h, BitMatrix.col_ofFn _ hr]
  exact map_getD_vec m _

theorem col_systemize_injective (h : PowersBelow m n) {i j : Nat} (hi : i < n) (hj : j < n)
    (hij : (systemize (parity m n)).1.col i = (systemize (parity m n)).1.col j) : i = j := by
  obtain ⟨c, hc, rfl⟩ := colPlace_surjOn h (Finset.mem_range.2 hi)
  have hc := Finset.mem_range.1 hc
  have hcol := (col_systemize_eq_iff h hc hi).2 rfl
  exact ((col_systemize_eq_iff h hc hj).1 (hij.symm.trans hcol)).symm

/-- Settles O35: S and Q in closed form give the shapes; the columns are those of H at their places, and two
columns of S are equal only at one place. -/
theorem systemizedColumns : Obligations.SystemizedColumns := by
  intro k hk m n sq
  have hpow : PowersBelow m n := powersBelow_deriveM hk
  have hlen : (infoPositions n).length = k := length_infoPositions_deriveM hk
  have hs : sq.1 = .ofFn m n (systemBit m n) := systemize_parity hpow
  have hq : sq.2 = .ofFn m k (infoBit m n) := hlen ▸ nonPowerColumns_parity hpow
  have hn := hpow.lt
  refine ⟨by rw [hs]; rfl, by rw [hs]; rfl, by rw [hq]; rfl, by rw [hq]; rfl,
    by rw [infoNumbers_eq, List.length_map, hlen], fun i hi => ?_, fun r hr => ?_,
    fun i hi j hj => col_systemize_injective hpow hi hj⟩
  · have hcol := col_systemize_pow hpow (e := m - 1 - i) (by omega)
    rw [show m - 1 - (m - 1 - i) = i by omega] at hcol
    rw [BitMatrix.colval, hcol, uint_vec (Nat.pow_lt_pow_right (by decide) (by omega))]
  · rw [← hlen] at hr
    have hS := col_systemize_info hpow hr
    have hQ := col_systemize_snd hpow hr
    have := infoPosition_lt hr
    rw [infoNumber_eq hr]
    exact ⟨hQ, hS.trans hQ.symm, by rw [BitMatrix.colval, hS, uint_vec (by omega)]⟩

/-! ### The record -/

theorem map_fst_pairs (place : Nat → Nat) (cs : List Nat) :
    (cs.map fun c => (c, place c)).map Prod.fst = cs := by
  rw [List.map_map]
  exact List.map_id _

theorem map_snd_pairs (place : Nat → Nat) (cs : List Nat) :
    (cs.map fun c => (c, place c)).map Prod.snd = cs.map place := List.map_map

/-- The places of the columns that move are those columns' own indexes (R95). -/
theorem mem_map_colPlace_movedColumns (h : PowersBelow m n) :
    c ∈ (movedColumns m n).map (colPlace m) ↔ c ∈ movedColumns m n := by
  simp only [List.mem_map, mem_movedColumns]
  constructor
  · rintro ⟨d, ⟨hd, hne⟩, rfl⟩
    have hlt := colPlace_lt h hd
    exact ⟨hlt, fun heq => hne (colPlace_injOn h (Finset.mem_range.2 hlt) (Finset.mem_range.2 hd) heq)⟩
  · rintro ⟨hc, hne⟩
    obtain ⟨d, hd, rfl⟩ := colPlace_surjOn h (Finset.mem_range.2 hc)
    exact ⟨d, ⟨Finset.mem_range.1 hd, fun heq => hne (by rw [heq, heq])⟩, rfl⟩

/-- A column moves when S differs from H there (R94). -/
theorem movedColumns_eq_filter (h : PowersBelow m n) :
    movedColumns m n = (List.range n).filter fun c =>
      (systemize (parity m n)).1.col c != (parity m n).col c :=
  List.filter_congr fun c hc => by
    have hc := List.mem_range.1 hc
    rw [Bool.eq_iff_iff, bne_iff_ne, bne_iff_ne, ne_eq, ne_eq, col_systemize_eq_iff h hc hc, eq_comm]

/-- Settles O36: S holds column c of H at `colPlace m c` and nowhere else, and `colPlace m` permutes the
indexes below n. -/
theorem recordIsTheColumnMap : Obligations.RecordIsTheColumnMap := by
  intro k hk m n h s
  have hpow : PowersBelow m n := powersBelow_deriveM hk
  have hlen : (infoPositions n).length = k := length_infoPositions_deriveM hk
  have hcol {c : Nat} (hc : c < n) : s.col (colPlace m c) = h.col c :=
    (col_systemize_eq_iff hpow hc (colPlace_lt hpow hc)).2 rfl
  refine ⟨fun c hc => ⟨colPlace m c, colPlace_lt hpow hc, hcol hc, fun f hf =>
      (col_systemize_eq_iff hpow hc hf).1⟩, fun f hf => ?_, fun i hi => ?_, fun r hr => ?_,
    _, record_parity hpow, ?_, ?_, ?_, ?_⟩
  · obtain ⟨c, hc, rfl⟩ := colPlace_surjOn hpow (Finset.mem_range.2 hf)
    have hc := Finset.mem_range.1 hc
    exact ⟨c, hc, hcol hc⟩
  · have := (hpow i).2 hi
    have := Nat.two_pow_pos i
    rw [← colPlace_of_pow (c := 2 ^ i - 1) (by omega), hcol (by omega)]
  · rw [← hlen] at hr
    rw [infoNumber_eq hr, Nat.add_sub_cancel, ← colPlace_infoPosition hr, hcol (infoPosition_lt hr)]
  · rw [map_fst_pairs, movedColumns_eq_filter hpow]
  · simp only [List.forall_mem_map]
    intro c hc
    have hc := (mem_movedColumns.1 hc).1
    exact ⟨colPlace_lt hpow hc, hcol hc⟩
  · intro x
    rw [map_fst_pairs, map_snd_pairs, mem_map_colPlace_movedColumns hpow]
  · simp only [List.forall_mem_map]
    intro c hc hp
    obtain ⟨hc, hne⟩ := mem_movedColumns.1 hc
    exact Nat.lt_of_le_of_ne (le_colPlace hpow hc hp) hne.symm

/-! ### The order of the pairs -/

/-- The copies of the record's pairs may be done in any order: they write different columns (R104). -/
theorem generator_perm (gstd : BitMatrix) {place : Nat → Nat} {cs : List Nat} {p : List (Nat × Nat)}
    (hp : p.Perm (cs.map fun c => (c, place c))) :
    generator gstd p = generator gstd (cs.map fun c => (c, place c)) := by
  refine (hp.symm.foldl_eq' ?_ gstd).symm
  simp only [List.forall_mem_map]
  intro c _ d _ a
  by_cases hcd : c = d
  · rw [hcd]
  · exact BitMatrix.setCol_comm hcd a _ _

/-- Settles O37: the copies commute; for k = 5 the pairs (2, 4) and (4, 5) both write the mask at 4, and the
reversed record writes it in the other order. -/
theorem copyOrderIsIrrelevant : Obligations.CopyOrderIsIrrelevant := by
  refine ⟨fun k p p' hk hrec hperm => ?_, ?_⟩
  · rw [record_parity (powersBelow_deriveM hk)] at hrec
    cases hrec
    exact generator_perm _ hperm
  · have hrec : record (parity (deriveM 5) (deriveM 5 + 5))
        (systemize (parity (deriveM 5) (deriveM 5 + 5))).1 =
          some [(0, 3), (1, 2), (2, 4), (3, 1), (4, 5), (5, 6), (6, 7), (7, 0)] := by decide
    exact ⟨5, _, _, by decide, hrec, List.reverse_perm _, by decide⟩

/-! ### The laws of the construction -/

/-- Settles O38: R101 is proved on the closed form of G, by `matMul_generator_parity`. -/
theorem generatorIsOrthogonal : Obligations.GeneratorIsOrthogonal := fun _ _ hk hb =>
  matMul_of_buildCode hk hb

/-- Settles O39: the mask's bits and its ones are those of `getD_mask_of_buildCode` and the check of R99; its
ones in order are the information positions. -/
theorem maskMarksNonPowers : Obligations.MaskMarksNonPowers := by
  intro k c hk hb
  have hbit (i : Nat) (hi : i < c.n) : c.mask.getD i false = !pow2 (i + 1) := by
    rw [Bool.eq_iff_iff, getD_mask_of_buildCode hk hb hi, Bool.not_eq_true']
  have hones : ((List.range c.n).filter fun i => c.mask.getD i false) = (infoNumbers c.n).map (· - 1) := by
    rw [infoNumbers_eq, List.map_map]
    exact (List.filter_congr fun i hi => hbit i (List.mem_range.1 hi)).trans (List.map_id _).symm
  obtain ⟨hpop, rfl⟩ := eq_of_buildCode hk hb
  exact ⟨length_infoMask _ _ _, hbit, fun _ => pow2_iff, hpop, hones⟩

/-- A parity column of G holds a bit of each information position's number (R103). -/
theorem standardBit_colPlace_pow (r : Nat) {e : Nat} (he : e < m) (hc : c + 1 = 2 ^ e) :
    standardBit m n r (colPlace m c) = (infoPosition n r + 1).testBit e := by
  have hlt : m - 1 - e < m := by omega
  rw [colPlace_of_pow hc, standardBit, if_pos hlt, infoBit, getD_vec_testBit hlt,
    show m - 1 - (m - 1 - e) = e by omega, infoPosition]

/-- An information column of G is a unit vector (R103). -/
theorem standardBit_colPlace_info {r : Nat} (hr : r < (infoPositions n).length)
    (hc : c ∈ infoPositions n) : standardBit m n r (colPlace m c) = true ↔ c = infoPosition n r := by
  rw [colPlace_of_info (mem_infoPositions.1 hc).2, eq_infoPosition_iff hc hr]
  simp [standardBit]

theorem standardBit_colPlace_iff (h : PowersBelow m n) {r : Nat} (hr : r < (infoPositions n).length)
    (hc : c < n) : standardBit m n r (colPlace m c) = true ↔
      c = infoPosition n r ∨ ∃ i < m, c = 2 ^ i - 1 ∧ (infoPosition n r + 1).testBit i = true := by
  have hsucc {i : Nat} : c = 2 ^ i - 1 ↔ c + 1 = 2 ^ i := by
    have := Nat.two_pow_pos i
    omega
  cases hp : pow2 (c + 1) with
  | false =>
    have hno : ¬ ∃ i < m, c = 2 ^ i - 1 ∧ (infoPosition n r + 1).testBit i = true := by
      rintro ⟨i, -, hi, -⟩
      rw [hsucc.1 hi, pow2_two_pow] at hp
      cases hp
    rw [standardBit_colPlace_info hr (mem_infoPositions.2 ⟨hc, hp⟩), or_iff_left hno]
  | true =>
    obtain ⟨e, he⟩ := pow2_iff.1 hp
    have hem : e < m := (h e).1 (by omega)
    have hne : c ≠ infoPosition n r := by
      rintro rfl
      simp [(mem_infoPositions.1 (infoPosition_mem hr)).2] at hp
    rw [standardBit_colPlace_pow r hem he, or_iff_right hne]
    constructor
    · exact fun hbit => ⟨e, hem, hsucc.2 he, hbit⟩
    · rintro ⟨i, -, hi, hbit⟩
      rwa [Nat.pow_right_injective (Nat.le_refl 2) (he.symm.trans (hsucc.1 hi))]

/-- Settles O40: G's column j is the column of `G_std` at `colPlace m j`, a unit vector for an information
position and the bits of the `q_r` for a parity position. -/
theorem generatorClosedForm : Obligations.GeneratorClosedForm := by
  intro k c hk hb
  have hpow := powersBelow_deriveM hk
  have hlen := length_infoPositions_deriveM hk
  obtain ⟨-, rfl⟩ := eq_of_buildCode hk hb
  refine ⟨rfl, rfl, fun r hr j hj => ?_, fun r hr => vecMul_unitVec _ hr⟩
  rw [entry_ofFn _ hr hj]
  rw [← hlen] at hr
  rw [infoNumber_eq hr, Nat.add_sub_cancel]
  exact standardBit_colPlace_iff hpow hr hj

end Sys2Proof.Machine
end

section
/-! SUPPORT. The GF(2) products as linear maps (00_scope.md R6, R8): the product with a sum, the product
with a product, both computed modulo 2; vectors by their elements, and the ones of a pattern (R9). -/

namespace Sys2Proof

/-! ### Vectors by their elements -/

theorem eq_of_getD {u v : BitVector} (hl : u.length = v.length)
    (h : ∀ i < u.length, u.getD i false = v.getD i false) : u = v := by
  rw [← map_getD_range u, ← map_getD_range v, ← hl]
  exact List.map_congr_left fun i hi => h i (List.mem_range.1 hi)

theorem getD_zeroVec (l i : Nat) : (zeroVec l).getD i false = false := by
  by_cases hi : i < l <;> simp [zeroVec, List.getD_eq_getElem?_getD, hi]

theorem gfAdd_comm (u v : BitVector) : gfAdd u v = gfAdd v u := by
  rw [gfAdd_eq_xor, gfAdd_eq_xor, List.zipWith_comm_of_comm Bool.xor_comm]

theorem zeroVec_gfAdd (v : BitVector) : gfAdd (zeroVec v.length) v = v := by
  rw [gfAdd_comm, gfAdd_zeroVec]

/-- `vec` takes the XOR of numbers to the GF(2) sum of vectors (R4, R6). -/
theorem gfAdd_vec (w x y : Nat) : gfAdd (vec w x) (vec w y) = vec w (x ^^^ y) := by
  refine eq_of_getD (by simp) fun i hi => ?_
  have hi : i < w := by simpa using hi
  rw [getD_gfAdd (by simp), getD_vec_testBit hi, getD_vec_testBit hi, getD_vec_testBit hi,
    Nat.testBit_xor]

/-! ### Sums modulo 2 -/

theorem cast_toNat_fix (x : Nat) : ((fix x).toNat : ZMod 2) = x := by
  rw [toNat_fix, ZMod.natCast_mod]

theorem fix_eq_of_cast_eq {x y : Nat} (h : (x : ZMod 2) = y) : fix x = fix y := by
  rw [ZMod.natCast_eq_natCast_iff'] at h
  rw [fix, fix, h]

theorem cast_toNat_xor (a b : Bool) : ((a ^^ b).toNat : ZMod 2) = a.toNat + b.toNat := by
  rw [← fix_add, cast_toNat_fix, Nat.cast_add]

/-! ### The products -/

theorem row_ofFn {r c i : Nat} (f : Nat → Nat → Bool) (hi : i < r) :
    (BitMatrix.ofFn r c f).row i = (List.range c).map fun j => f i j := by
  simp [BitMatrix.row, BitMatrix.ofFn, List.getD_eq_getElem?_getD, hi]

/-- The product is linear in its vector (R6, R8). -/
theorem vecMul_gfAdd {u v : BitVector} (h : u.length = v.length) (b : BitMatrix) :
    vecMul (gfAdd u v) b = gfAdd (vecMul u b) (vecMul v b) := by
  refine eq_of_getD (by simp) fun j hj => ?_
  have hj : j < b.cols := by simpa using hj
  have hlen : (gfAdd u v).length = u.length := by simp [h]
  have hsum : ((dotCol (gfAdd u v) b j : Nat) : ZMod 2) = ((dotCol u b j + dotCol v b j : Nat) : ZMod 2) := by
    simp only [dotCol_eq_sum, hlen, ← h, getD_gfAdd h]
    push_cast
    simp only [cast_toNat_xor, add_mul, Finset.sum_add_distrib]
  rw [getD_gfAdd (by simp), getD_vecMul _ hj, getD_vecMul _ hj, getD_vecMul _ hj,
    fix_eq_of_cast_eq hsum, fix_add_nat]

/-- The products associate (R8): both are the same double sum modulo 2. -/
theorem vecMul_vecMul {k n : Nat} {v : BitVector} (hv : v.length = k) (f : Nat → Nat → Bool)
    (b : BitMatrix) : vecMul (vecMul v (.ofFn k n f)) b = vecMul v (matMul (.ofFn k n f) b) := by
  refine List.map_congr_left fun j hj => fix_eq_of_cast_eq ?_
  have hj : j < b.cols := List.mem_range.1 hj
  have hleft (l : Nat) (hl : l ∈ Finset.range n) :
      (((vecMul v (.ofFn k n f)).getD l false).toNat : ZMod 2) =
        ∑ r ∈ Finset.range k, ((v.getD r false).toNat : ZMod 2) * (f r l).toNat := by
    have hl : l < n := Finset.mem_range.1 hl
    rw [getD_vecMul _ hl, cast_toNat_fix, dotCol_eq_sum, hv]
    push_cast
    refine Finset.sum_congr rfl fun r hr => ?_
    rw [entry_ofFn f (Finset.mem_range.1 hr) hl]
  have hright (r : Nat) (hr : r ∈ Finset.range k) :
      (((matMul (.ofFn k n f) b).entry r j).toNat : ZMod 2) =
        ∑ l ∈ Finset.range n, ((f r l).toNat : ZMod 2) * (b.entry l j).toNat := by
    have hr : r < k := Finset.mem_range.1 hr
    rw [entry_matMul (by simpa [BitMatrix.ofFn] using hr), row_ofFn f hr, getD_vecMul _ hj, cast_toNat_fix,
      dotCol_eq_sum, List.length_map, List.length_range]
    push_cast
    refine Finset.sum_congr rfl fun l hl => ?_
    rw [getD_map_range _ (Finset.mem_range.1 hl)]
  rw [dotCol_eq_sum, dotCol_eq_sum, length_vecMul, cols_ofFn, hv]
  push_cast
  calc _ = ∑ l ∈ Finset.range n, ∑ r ∈ Finset.range k,
          ((v.getD r false).toNat : ZMod 2) * (f r l).toNat * (b.entry l j).toNat :=
        Finset.sum_congr rfl fun l hl => by rw [hleft l hl, Finset.sum_mul]
    _ = ∑ r ∈ Finset.range k, ∑ l ∈ Finset.range n,
          ((v.getD r false).toNat : ZMod 2) * (f r l).toNat * (b.entry l j).toNat := Finset.sum_comm
    _ = _ := Finset.sum_congr rfl fun r hr => by simp only [hright r hr, Finset.mul_sum, mul_assoc]

theorem dotCol_eq_zero {v : BitVector} {b : BitMatrix} {j : Nat}
    (h : ∀ l < v.length, v.getD l false = false ∨ b.entry l j = false) : dotCol v b j = 0 := by
  rw [dotCol_eq_sum]
  refine Finset.sum_eq_zero fun l hl => ?_
  obtain h | h := h l (Finset.mem_range.1 hl) <;> simp only [h, Bool.toNat_false, zero_mul, mul_zero]

/-- A product whose terms are all 0 (R8). -/
theorem vecMul_eq_zeroVec {v : BitVector} {b : BitMatrix}
    (h : ∀ l < v.length, ∀ j < b.cols, v.getD l false = false ∨ b.entry l j = false) :
    vecMul v b = zeroVec b.cols := by
  refine List.eq_replicate_iff.2 ⟨length_vecMul v b, fun x hx => ?_⟩
  obtain ⟨j, hj, rfl⟩ := List.mem_map.1 hx
  rw [dotCol_eq_zero fun l hl => h l hl j (List.mem_range.1 hj)]
  rfl

theorem vecMul_zeroVec (l : Nat) (b : BitMatrix) : vecMul (zeroVec l) b = zeroVec b.cols :=
  vecMul_eq_zeroVec fun i _ _ _ => .inl (getD_zeroVec l i)

/-- A product with a zero matrix is zero (R8). -/
theorem vecMul_zeroMatrix (v : BitVector) (k m : Nat) :
    vecMul v ⟨k, m, List.replicate k (zeroVec m)⟩ = zeroVec m := by
  refine vecMul_eq_zeroVec fun l _ j _ => .inr ?_
  by_cases hl : l < k
  · simpa [BitMatrix.entry, List.getD_eq_getElem?_getD, hl] using getD_zeroVec m j
  · simp [BitMatrix.entry, List.getD_eq_getElem?_getD, hl]

/-! ### The ones of a pattern -/

@[simp] theorem popcount_zeroVec (l : Nat) : popcount (zeroVec l) = 0 := by
  simp [popcount, zeroVec, List.countP_replicate]

/-- One more error, at a position without one, is one more 1 (R9). -/
theorem popcount_gfAdd_unitVec {n p : Nat} {v : BitVector} (hv : v.length = n) (hp : p < n)
    (h : v.getD p false = false) : popcount (gfAdd v (unitVec n p)) = popcount v + 1 := by
  subst hv
  have hget : v[p] = false := by simpa [List.getD_eq_getElem?_getD, hp] using h
  rw [gfAdd_unitVec hp, h, popcount, List.countP_set hp, hget]
  rfl

/-- Errors at three different positions are three ones (R9). -/
theorem popcount_three_unitVec {n p q r : Nat} (hp : p < n) (hq : q < n) (hr : r < n) (hqp : q ≠ p)
    (hrp : r ≠ p) (hrq : r ≠ q) :
    popcount (gfAdd (gfAdd (unitVec n p) (unitVec n q)) (unitVec n r)) = 3 := by
  have hone : popcount (unitVec n p) = 1 := by
    have hadd := popcount_gfAdd_unitVec (length_zeroVec n) hp (getD_zeroVec n p)
    have hzero : gfAdd (zeroVec n) (unitVec n p) = unitVec n p := by
      simpa using zeroVec_gfAdd (unitVec n p)
    rwa [hzero, popcount_zeroVec] at hadd
  rw [popcount_gfAdd_unitVec (by simp) hr, popcount_gfAdd_unitVec (by simp) hq, hone]
  · rw [getD_unitVec hq, beq_false_of_ne hqp]
  · rw [getD_gfAdd (by simp), getD_unitVec hr, getD_unitVec hr, beq_false_of_ne hrp,
      beq_false_of_ne hrq, Bool.xor_false]

end Sys2Proof
end

section
/-! SUPPORT. The code of a built instance (41_construct.md R92 to R103) as a code: its words, their
syndromes and what the extraction reads (42_codec.md R117, R118, R123). -/

namespace Sys2Proof.Machine

/-! ### Syndromes under the parity matrix (R117) -/

section
variable {m n : Nat}

theorem entry_transpose_parity {l i : Nat} (hl : l < n) (hi : i < m) :
    (parity m n).transpose.entry l i = (l + 1).testBit (m - 1 - i) := by
  rw [entry_transpose (a := parity m n) hi hl, ← getD_col, col_parity hl, getD_vec_testBit hi]

/-- `e_p x2 H^T` is `vec_m(p + 1)` (R115). -/
theorem vecMul_unitVec_parity {p : Nat} (hp : p < n) :
    vecMul (unitVec n p) (parity m n).transpose = vec m (p + 1) := by
  have hrow := vecMul_unitVec (k := n) (n := m) (fun l i => (parity m n).entry i l) hp
  rw [row_ofFn _ hp] at hrow
  calc vecMul (unitVec n p) (parity m n).transpose
      = (List.range m).map fun i => (parity m n).entry i p := hrow
    _ = (List.range m).map fun i => (vec m (p + 1)).getD i false := by
        simp only [← getD_col, col_parity hp]
    _ = vec m (p + 1) := map_getD_vec m (p + 1)

/-- The XOR of the numbers `i + 1` for the listed i, bit by bit. -/
theorem testBit_foldl_xor (is : List Nat) (acc b : Nat) :
    (is.foldl (fun x i => x ^^^ (i + 1)) acc).testBit b =
      is.foldl (fun x i => x ^^ (i + 1).testBit b) (acc.testBit b) := by
  induction is generalizing acc with
  | nil => rfl
  | cons i is ih => rw [List.foldl_cons, List.foldl_cons, ih, Nat.testBit_xor]

theorem foldl_xor_lt {is : List Nat} (h : ∀ i ∈ is, i + 1 < 2 ^ m) {acc : Nat} (hacc : acc < 2 ^ m) :
    is.foldl (fun x i => x ^^^ (i + 1)) acc < 2 ^ m := by
  induction is generalizing acc with
  | nil => exact hacc
  | cons i is ih =>
    exact ih (fun j hj => h j (by simp [hj])) (Nat.xor_lt_two_pow hacc (h i (by simp)))

/-- Bit by bit, the syndrome is the XOR of the numbers that the ones of the word select (R117). -/
theorem vecMul_parity_eq_vec {w : BitVector} (hw : w.length = n) :
    vecMul w (parity m n).transpose =
      vec m (((List.range n).filter fun i => w.getD i false).foldl (fun x i => x ^^^ (i + 1)) 0) := by
  refine eq_of_getD (by simp [parity]) fun i hi => ?_
  have hi : i < m := by simpa [parity] using hi
  rw [getD_vecMul_eq_xor w (b := (parity m n).transpose) hi, getD_vec_testBit hi, testBit_foldl_xor,
    Nat.zero_testBit, hw]
  refine List.foldl_ext _ _ _ fun x l hl => ?_
  rw [entry_transpose_parity (List.mem_range.1 (List.mem_filter.1 hl).1) hi]

theorem uint_vecMul_parity (h : PowersBelow m n) {w : BitVector} (hw : w.length = n) :
    uint (vecMul w (parity m n).transpose) =
      ((List.range n).filter fun i => w.getD i false).foldl (fun x i => x ^^^ (i + 1)) 0 := by
  have hn := h.lt
  rw [vecMul_parity_eq_vec hw, uint_vec (foldl_xor_lt (fun i hi => ?_) (Nat.two_pow_pos m))]
  have := List.mem_range.1 (List.mem_filter.1 hi).1
  omega

end

/-- Without its greatest bit a number is smaller. -/
theorem xor_two_pow_lt {x i : Nat} (hle : 2 ^ i ≤ x) (hlt : x < 2 ^ (i + 1)) : x ^^^ 2 ^ i < x := by
  have hbit : x.testBit i = true := Nat.testBit_of_two_pow_le_and_two_pow_add_one_gt hle hlt
  refine Nat.lt_of_testBit i (by simp [hbit]) hbit fun j hij => ?_
  simp [Nat.testBit_two_pow_of_ne hij.ne]

/-! ### The built instance -/

/-- What the construction gives for k, in the form the codec needs (R92 to R102). -/
structure BuiltCode (k : Nat) (c : CodeInstance) : Prop where
  pos : 1 ≤ k
  k_eq : c.k = k
  m_eq : c.m = deriveM k
  n_eq : c.n = c.m + k
  two_le_m : 2 ≤ c.m
  powers : PowersBelow c.m c.n
  length_info : (infoPositions c.n).length = k
  h_eq : c.h = parity c.m c.n
  g_eq : c.g = .ofFn k c.n fun r j => standardBit c.m c.n r (colPlace c.m j)
  mask_ones : ((List.range c.n).filter fun i => c.mask.getD i false) = infoPositions c.n
  orthogonal : matMul c.g c.h.transpose = ⟨k, c.m, List.replicate k (zeroVec c.m)⟩

theorem builtCode {k : Nat} (hk : 1 ≤ k) {c : CodeInstance} (hb : buildCode k = some c) :
    BuiltCode k c := by
  have hmul := matMul_of_buildCode hk hb
  have hones : ((List.range c.n).filter fun i => c.mask.getD i false) = infoPositions c.n :=
    List.filter_congr fun i hi => by
      rw [Bool.eq_iff_iff, getD_mask_of_buildCode hk hb (List.mem_range.1 hi), Bool.not_eq_true']
  obtain ⟨-, rfl⟩ := eq_of_buildCode hk hb
  exact {
    pos := hk
    k_eq := rfl
    m_eq := rfl
    n_eq := rfl
    two_le_m := two_le_deriveM hk
    powers := powersBelow_deriveM hk
    length_info := length_infoPositions_deriveM hk
    h_eq := rfl
    g_eq := rfl
    mask_ones := hones
    orthogonal := hmul }

namespace BuiltCode

section
variable {k : Nat} {c : CodeInstance} (h : BuiltCode k c)
include h

theorem lt_length_info {r : Nat} (hr : r < k) : r < (infoPositions c.n).length := h.length_info ▸ hr

theorem infoNumber_eq {r : Nat} (hr : r < k) : infoNumber c.n r = infoPosition c.n r + 1 :=
  Machine.infoNumber_eq (h.lt_length_info hr)

theorem three_le_n : 3 ≤ c.n := by
  have := h.pos
  have := h.n_eq
  have := h.two_le_m
  omega

/-! ### Syndromes (R117, R118) -/

theorem cols_transpose_h : c.h.transpose.cols = c.m := by rw [h.h_eq]; rfl

theorem length_syndrome (w : BitVector) : (vecMul w c.h.transpose).length = c.m := by
  rw [length_vecMul, h.cols_transpose_h]

theorem uint_syndrome_lt (w : BitVector) : uint (vecMul w c.h.transpose) < 2 ^ c.m := by
  simpa only [h.length_syndrome] using uint_lt (vecMul w c.h.transpose)

theorem uint_syndrome {w : BitVector} (hw : w.length = c.n) : uint (vecMul w c.h.transpose) =
    ((List.range c.n).filter fun i => w.getD i false).foldl (fun x i => x ^^^ (i + 1)) 0 := by
  rw [h.h_eq]
  exact uint_vecMul_parity h.powers hw

theorem syndrome_unitVec {p : Nat} (hp : p < c.n) :
    vecMul (unitVec c.n p) c.h.transpose = vec c.m (p + 1) := by
  rw [h.h_eq, vecMul_unitVec_parity hp]

theorem col_h {j : Nat} (hj : j < c.n) : c.h.col j = vec c.m (j + 1) := by rw [h.h_eq, col_parity hj]

theorem length_codeword (s : BitVector) : (vecMul s c.g).length = c.n := by
  rw [length_vecMul, h.g_eq]; rfl

/-- A codeword has the zero syndrome, since `G x2 H^T = 0` (R118). -/
theorem syndrome_codeword {s : BitVector} (hs : s.length = k) :
    vecMul (vecMul s c.g) c.h.transpose = zeroVec c.m := by
  have hassoc : vecMul (vecMul s c.g) c.h.transpose = vecMul s (matMul c.g c.h.transpose) := by
    rw [h.g_eq, vecMul_vecMul hs]
  rw [hassoc, h.orthogonal, vecMul_zeroMatrix]

/-- The syndrome of a codeword with an error pattern is that of the pattern (R118). -/
theorem syndrome_codeword_gfAdd {s e : BitVector} (hs : s.length = k) (he : e.length = c.n) :
    vecMul (gfAdd (vecMul s c.g) e) c.h.transpose = vecMul e c.h.transpose := by
  rw [vecMul_gfAdd (by rw [h.length_codeword, he]), h.syndrome_codeword hs, ← h.length_syndrome e,
    zeroVec_gfAdd]

/-- Two errors have the XOR of their positions as syndrome (R121). -/
theorem syndrome_two_unitVec {p q : Nat} (hp : p < c.n) (hq : q < c.n) :
    vecMul (gfAdd (unitVec c.n p) (unitVec c.n q)) c.h.transpose = vec c.m ((p + 1) ^^^ (q + 1)) := by
  rw [vecMul_gfAdd (by simp), h.syndrome_unitVec hp, h.syndrome_unitVec hq, gfAdd_vec]

theorem succ_lt_two_pow {p : Nat} (hp : p < c.n) : p + 1 < 2 ^ c.m := by
  have := h.powers.lt
  omega

/-- Where N + 1 has M bits, two errors give it as syndrome value: one at the greatest power of two up to N,
one at the number that N + 1 is without that bit (R112). -/
theorem exists_uint_syndrome_gt (hn : c.n < 2 ^ c.m - 1) :
    ∃ w : BitVector, w.length = c.n ∧ c.n < uint (vecMul w c.h.transpose) := by
  have hm := h.two_le_m
  have hpos := Nat.two_pow_pos (c.m - 1)
  have hlow : 2 ^ (c.m - 1) ≤ c.n := (h.powers _).2 (by omega)
  have hrest := xor_two_pow_lt (x := c.n + 1) (i := c.m - 1) (by omega)
    (by rw [Nat.sub_add_cancel (by omega)]; omega)
  have hne : (c.n + 1) ^^^ 2 ^ (c.m - 1) ≠ 0 := by
    rw [ne_eq, Nat.xor_eq_zero_iff]
    omega
  refine ⟨gfAdd (unitVec c.n (2 ^ (c.m - 1) - 1)) (unitVec c.n (((c.n + 1) ^^^ 2 ^ (c.m - 1)) - 1)),
    by simp, ?_⟩
  rw [h.syndrome_two_unitVec (by omega) (by omega), Nat.sub_add_cancel (by omega),
    Nat.sub_add_cancel (by omega), Nat.xor_comm, Nat.xor_xor_cancel_right, uint_vec (by omega)]
  exact Nat.lt_succ_self _

/-! ### Codewords and the extraction (R123) -/

theorem entry_g {r j : Nat} (hr : r < k) (hj : j < c.n) :
    c.g.entry r j = standardBit c.m c.n r (colPlace c.m j) := by
  rw [h.g_eq, entry_ofFn _ hr hj]

theorem getD_codeword (s : BitVector) {j : Nat} (hj : j < c.n) :
    (vecMul s c.g).getD j false = fix (dotCol s c.g j) :=
  getD_vecMul s (by rw [h.g_eq]; exact hj)

/-- A codeword holds its source digit r at the r-th information position (R123). -/
theorem getD_codeword_info {s : BitVector} (hs : s.length = k) {r : Nat} (hr : r < k) :
    (vecMul s c.g).getD (infoPosition c.n r) false = s.getD r false := by
  have hr' := h.lt_length_info hr
  have hpos := infoPosition_lt hr'
  have hentry {l : Nat} (hl : l < k) : c.g.entry l (infoPosition c.n r) = true ↔ l = r := by
    rw [h.entry_g hl hpos, standardBit_colPlace_info (h.lt_length_info hl) (infoPosition_mem hr'),
      eq_infoPosition_iff (infoPosition_mem hr') (h.lt_length_info hl),
      ← (eq_infoPosition_iff (infoPosition_mem hr') hr').1 rfl]
  have hdot : dotCol s c.g (infoPosition c.n r) = (s.getD r false).toNat := by
    rw [dotCol_eq_sum, hs, Finset.sum_eq_single_of_mem r (Finset.mem_range.2 hr),
      (hentry hr).2 rfl, Bool.toNat_true, mul_one]
    intro l hl hne
    rw [Bool.eq_false_iff.2 (mt (hentry (Finset.mem_range.1 hl)).1 hne), Bool.toNat_false, mul_zero]
  rw [h.getD_codeword s hpos, hdot]
  cases s.getD r false <;> rfl

/-- A codeword holds at `2^i - 1` the XOR of the source digits whose number has bit i (R123). -/
theorem getD_codeword_parity {s : BitVector} (hs : s.length = k) {i : Nat} (hi : i < c.m) :
    (vecMul s c.g).getD (2 ^ i - 1) false =
      ((List.range k).filter fun r => (infoNumber c.n r).testBit i).foldl
        (fun x r => x ^^ s.getD r false) false := by
  have hpow := (h.powers i).2 hi
  have hpos := Nat.two_pow_pos i
  have hj : 2 ^ i - 1 < c.n := by omega
  rw [h.getD_codeword s hj, foldl_xor_filter, Bool.false_xor, dotCol, hs]
  refine congrArg (fun l => fix (List.sum l)) (List.map_congr_left fun r hr => ?_)
  have hr := List.mem_range.1 hr
  rw [h.entry_g hr hj, standardBit_colPlace_pow r hi (by omega), h.infoNumber_eq hr, Nat.mul_comm]

/-- The information positions, listed by r (R95). -/
theorem infoPositions_eq : infoPositions c.n = (List.range k).map (infoPosition c.n) := by
  refine List.ext_getElem (by simp [h.length_info]) fun r hr _ => ?_
  simp [infoPosition, List.getD_eq_getElem?_getD, hr]

/-- The extraction reads the information positions by ascending r (R123). -/
theorem extractInfo_eq (w : BitVector) :
    extractInfo c w = (List.range k).map fun r => w.getD (infoPosition c.n r) false := by
  rw [extractInfo, h.mask_ones, h.infoPositions_eq, List.map_map]
  rfl

/-- The extraction undoes the encoding (R119). -/
theorem extractInfo_codeword {s : BitVector} (hs : s.length = k) :
    extractInfo c (vecMul s c.g) = s := by
  rw [h.extractInfo_eq]
  calc _ = (List.range k).map fun r => s.getD r false :=
        List.map_congr_left fun r hr => h.getD_codeword_info hs (List.mem_range.1 hr)
    _ = s := by rw [← hs, map_getD_range]

/-- An error at a parity position does not reach the information digits (R111). -/
theorem extractInfo_set {p : Nat} (hp : pow2 (p + 1) = true) (w : BitVector) (b : Bool) :
    extractInfo c (w.set p b) = extractInfo c w := by
  rw [extractInfo, extractInfo, h.mask_ones]
  refine List.map_congr_left fun i hi => ?_
  have hne : p ≠ i := by
    rintro rfl
    simp [(mem_infoPositions.1 hi).2] at hp
  simp [List.getD_eq_getElem?_getD, List.getElem?_set_ne hne]

end

end BuiltCode

end Sys2Proof.Machine
end

section
/-! SUPPORT. Proofs about the codec and the multiplier (42_codec.md R110 to R124): what each command does in
each of its cases on an instance the block holds, then what that comes to on a built instance. -/

namespace Sys2Proof.Machine

variable {s t : State} {c : CodeInstance} {da : BitVector}

/-! ### The flags (R34) -/

theorem errdetOf_zero : errdetOf 0 = false := rfl

theorem outcomeOf_zero (n : Nat) : outcomeOf 0 n = 0 := if_pos rfl

theorem errdetOf_of_pos {v : Nat} (hv : 1 ≤ v) : errdetOf v = true := by
  simp [errdetOf, Nat.one_le_iff_ne_zero.1 hv]

theorem outcomeOf_corrected {v n : Nat} (hv : 1 ≤ v) (hn : v ≤ n) : outcomeOf v n = 1 := by
  rw [outcomeOf, if_neg (by omega), if_pos hn]

theorem outcomeOf_uncorrectable {v n : Nat} (hn : n < v) : outcomeOf v n = 2 := by
  rw [outcomeOf, if_neg (by omega), if_neg (by omega)]

/-- OUTCOME 2 names a syndrome value above N (R34). -/
theorem lt_of_outcomeOf_eq_two {v n : Nat} (h : outcomeOf v n = 2) : n < v := by
  by_contra hn
  obtain rfl | hv := Nat.eq_zero_or_pos v
  · rw [outcomeOf_zero] at h
    exact absurd h (by decide)
  · rw [outcomeOf_corrected hv (by omega)] at h
    exact absurd h (by decide)

/-! ### The products -/

theorem exec_encode_of_length (hr : s.Ready c) (h : da.length = c.k) :
    exec (.encode da) s = .next (complete (writeDout (vecMul da c.g) s)) :=
  (withCode_of_ready hr _).trans (if_neg (not_not.2 h))

theorem exec_encode_lengthMismatch (hr : s.Ready c) (h : da.length ≠ c.k) :
    exec (.encode da) s = .next (raise .lengthMismatch s) :=
  (withCode_of_ready hr _).trans (if_pos h)

/-- GF2MUL.G and ENCODE have one meaning (R124). -/
theorem exec_gf2mulG_eq_encode (da : BitVector) (s : State) :
    exec (.gf2mulG da) s = exec (.encode da) s := rfl

theorem exec_gf2mulHT_of_length (hr : s.Ready c) (h : da.length = c.n) :
    exec (.gf2mulHT da) s = .next (complete (writeDout (vecMul da c.h.transpose) s)) :=
  (withCode_of_ready hr _).trans (if_neg (not_not.2 h))

theorem exec_gf2mulHT_lengthMismatch (hr : s.Ready c) (h : da.length ≠ c.n) :
    exec (.gf2mulHT da) s = .next (raise .lengthMismatch s) :=
  (withCode_of_ready hr _).trans (if_pos h)

theorem exec_gf2mulGHT_of_fits (hr : s.Ready c) (h : s.config.lmax.admits (c.k * c.m) = true) :
    exec .gf2mulGHT s = .next (complete (writeDout (matMul c.g c.h.transpose).bits.flatten s)) :=
  (withCode_of_ready hr _).trans (if_neg (by simp [h]))

theorem exec_gf2mulGHT_range (hr : s.Ready c) (h : s.config.lmax.admits (c.k * c.m) = false) :
    exec .gf2mulGHT s = .next (raise .range s) :=
  (withCode_of_ready hr _).trans (if_pos h)

theorem exec_syndrome_of_length (hr : s.Ready c) (h : da.length = c.n) :
    exec (.syndrome da) s = .next (complete (writeSynval (uint (vecMul da c.h.transpose))
      (writeSyn (vecMul da c.h.transpose) s))) :=
  (withCode_of_ready hr _).trans (if_neg (not_not.2 h))

theorem exec_syndrome_lengthMismatch (hr : s.Ready c) (h : da.length ≠ c.n) :
    exec (.syndrome da) s = .next (raise .lengthMismatch s) :=
  (withCode_of_ready hr _).trans (if_pos h)

/-! ### DECODE (R111) -/

theorem exec_decode_lengthMismatch (hr : s.Ready c) (h : da.length ≠ c.n) :
    exec (.decode da) s = .next (raise .lengthMismatch s) :=
  (withCode_of_ready hr _).trans (if_pos h)

/-- The state after a DECODE that read the syndrome `syn` and gives the digits `d`. -/
def decoded (c : CodeInstance) (syn d : BitVector) (s : State) : State :=
  complete (writeDout d (writeDvalid (decide (uint syn ≤ c.n))
    (writeFlags (uint syn) c.n (writeSynval (uint syn) (writeSyn syn s)))))

theorem exec_decode_of_le {syn : BitVector} (hr : s.Ready c) (h : da.length = c.n)
    (hsyn : vecMul da c.h.transpose = syn) (hv : uint syn ≤ c.n) :
    exec (.decode da) s =
      .next (decoded c syn (extractInfo c (correctedWord c da (uint syn))) s) := by
  subst hsyn
  rw [decoded, decide_eq_true hv]
  exact (withCode_of_ready hr _).trans ((if_neg (not_not.2 h)).trans (if_neg (Nat.not_lt.2 hv)))

theorem exec_decode_uncorrectable {syn : BitVector} (hr : s.Ready c) (h : da.length = c.n)
    (hsyn : vecMul da c.h.transpose = syn) (hv : c.n < uint syn) :
    exec (.decode da) s = .next (decoded c syn [] s) := by
  subst hsyn
  rw [decoded, decide_eq_false (Nat.not_le.2 hv)]
  exact (withCode_of_ready hr _).trans ((if_neg (not_not.2 h)).trans (if_pos hv))

/-- Whatever the syndrome, a DECODE of a word of the right length completes with its value and flags. -/
theorem exec_decode_of_length {syn : BitVector} (hr : s.Ready c) (h : da.length = c.n)
    (hsyn : vecMul da c.h.transpose = syn) : ∃ d, exec (.decode da) s = .next (decoded c syn d s) := by
  obtain hv | hv := Nat.lt_or_ge c.n (uint syn)
  · exact ⟨_, exec_decode_uncorrectable hr h hsyn hv⟩
  · exact ⟨_, exec_decode_of_le hr h hsyn hv⟩

theorem decoded_clean {syn : BitVector} (hv : uint syn = 0) (d : BitVector) :
    decoded c syn d s = { s with
      syn := .val syn, synval := .val 0, errdet := .val false, outcome := .val 0, dvalid := .val true,
      status := 0, dout := .val d } := by
  rw [decoded, hv, writeFlags, errdetOf_zero, outcomeOf_zero, decide_eq_true (Nat.zero_le _)]
  rfl

theorem decoded_corrected {syn : BitVector} {v : Nat} (hv : uint syn = v) (h1 : 1 ≤ v) (hn : v ≤ c.n)
    (d : BitVector) : decoded c syn d s = { s with
      syn := .val syn, synval := .val v, errdet := .val true, outcome := .val 1, dvalid := .val true,
      status := 0, dout := .val d } := by
  rw [decoded, hv, writeFlags, errdetOf_of_pos h1, outcomeOf_corrected h1 hn, decide_eq_true hn]
  rfl

theorem decoded_uncorrectable {syn : BitVector} {v : Nat} (hv : uint syn = v) (hn : c.n < v)
    (d : BitVector) : decoded c syn d s = { s with
      syn := .val syn, synval := .val v, errdet := .val true, outcome := .val 2, dvalid := .val false,
      status := 0, dout := .val d } := by
  rw [decoded, hv, writeFlags, errdetOf_of_pos (by omega), outcomeOf_uncorrectable hn,
    decide_eq_false (Nat.not_le.2 hn)]
  rfl

theorem correctedWord_zero (w : BitVector) : correctedWord c w 0 = w := if_pos rfl

theorem correctedWord_of_pos {v : Nat} (hv : 1 ≤ v) (w : BitVector) :
    correctedWord c w v = gfAdd w (unitVec c.n (v - 1)) := if_neg (by omega)

theorem correctedWord_eq_set {w : BitVector} {v : Nat} (hw : w.length = c.n) (hv : 1 ≤ v)
    (hn : v ≤ c.n) : correctedWord c w v = w.set (v - 1) (!w.getD (v - 1) false) := by
  rw [correctedWord_of_pos hv, ← hw, gfAdd_unitVec (by omega)]

/-! ### LOCATE (R113) -/

theorem exec_locate_lengthMismatch (hr : s.Ready c) (h : da.length ≠ c.m) :
    exec (.locate da) s = .next (raise .lengthMismatch s) :=
  (withCode_of_ready hr _).trans (if_pos h)

theorem exec_locate_corrected {v : Nat} (hr : s.Ready c) (h : da.length = c.m) (hv : uint da = v)
    (h1 : 1 ≤ v) (hn : v ≤ c.n) : exec (.locate da) s =
      .next (complete (writeRval (v - 1) (writeFlags v c.n (writeSynval v s)))) := by
  subst hv
  exact (withCode_of_ready hr _).trans
    ((if_neg (not_not.2 h)).trans (if_pos ⟨Nat.one_le_iff_ne_zero.1 h1, hn⟩))

theorem exec_locate_not_corrected {v : Nat} (hr : s.Ready c) (h : da.length = c.m) (hv : uint da = v)
    (hout : v = 0 ∨ c.n < v) :
    exec (.locate da) s = .next (complete (writeFlags v c.n (writeSynval v s))) := by
  subst hv
  exact (withCode_of_ready hr _).trans ((if_neg (not_not.2 h)).trans (if_neg (by omega)))

/-- In all three cases LOCATE writes the value and its OUTCOME. -/
theorem exec_locate_flags (hr : s.Ready c) (h : da.length = c.m) (hex : exec (.locate da) s = .next t) :
    t.synval = .val (uint da) ∧ t.outcome = .val (outcomeOf (uint da) c.n) := by
  by_cases hv : 1 ≤ uint da ∧ uint da ≤ c.n
  · cases (exec_locate_corrected hr h rfl hv.1 hv.2).symm.trans hex
    exact ⟨rfl, rfl⟩
  · cases (exec_locate_not_corrected hr h rfl (by omega)).symm.trans hex
    exact ⟨rfl, rfl⟩

/-! ### The commands on an instance the block holds -/

/-- Settles O45: the value is 0, names a position, or is above N, and only the second case writes RVAL. -/
theorem locateRecoversPosition : Obligations.LocateRecoversPosition := by
  refine ⟨fun _ => decode_encodeWord (i := .locate _) rfl, fun s c da hr =>
    ⟨exec_locate_lengthMismatch hr, fun h hv => exec_locate_not_corrected hr h hv (.inl rfl),
      fun v h hv h1 hn => ?_, fun v h hv h1 hn => ?_⟩⟩
  · rw [exec_locate_corrected hr h hv h1 hn, writeFlags, errdetOf_of_pos h1, outcomeOf_corrected h1 hn]
    rfl
  · rw [exec_locate_not_corrected hr h hv (.inr hn), writeFlags, errdetOf_of_pos h1,
      outcomeOf_uncorrectable hn]
    rfl

/-- Settles O46: GF2MUL.G is ENCODE, and SYNDROME and GF2MUL.HT write the same product. -/
theorem gf2mulGIsEncode : Obligations.Gf2mulGIsEncode :=
  ⟨fun _ => decode_encodeWord (i := .gf2mulG _) rfl,
    fun s _ da hr => exec_gf2mulG_eq_encode da s ▸
      ⟨exec_encode_of_length hr, exec_encode_lengthMismatch hr⟩,
    fun s da => exec_gf2mulG_eq_encode da s,
    fun _ _ _ hr h => ⟨_, _, exec_syndrome_of_length hr h, exec_gf2mulHT_of_length hr h, rfl⟩⟩

/-! ### The commands on a built instance -/

/-- Settles O42: on a built instance the product is a codeword in the sense of `getD_codeword_info`. -/
theorem encodeMultipliesByG : Obligations.EncodeMultipliesByG := by
  refine ⟨fun _ => decode_encodeWord (i := .encode _) rfl, fun _ _ _ hr =>
    ⟨exec_encode_of_length hr, exec_encode_lengthMismatch hr⟩, fun k c hk hb => ?_⟩
  have hc := builtCode hk hb
  refine ⟨?_, fun r hr => ?_, fun da hda r hr => ?_⟩
  · rw [vecMul_zeroVec, hc.g_eq, cols_ofFn]
  · rw [hc.g_eq, vecMul_unitVec _ hr]
  · rw [hc.infoNumber_eq hr, Nat.add_sub_cancel, hc.getD_codeword_info hda hr]

/-- Settles O43: the three outcomes are the three ranges of the syndrome value, and the extraction reads
the k information positions only. -/
theorem decodeCorrectsAndExtracts : Obligations.DecodeCorrectsAndExtracts := by
  refine ⟨fun _ => decode_encodeWord (i := .decode _) rfl, fun s c da hr =>
    ⟨exec_decode_lengthMismatch hr, fun h hv => ?_, fun v h hv h1 hn => ?_, fun v h hv hn => ?_⟩,
    fun k c hk hb => ?_⟩
  · rw [exec_decode_of_le hr h rfl (by omega), decoded_clean hv, hv, correctedWord_zero]
    rfl
  · rw [exec_decode_of_le hr h rfl (by omega), decoded_corrected hv h1 hn, hv,
      correctedWord_eq_set h h1 hn]
    rfl
  · rw [exec_decode_uncorrectable hr h rfl (by omega), decoded_uncorrectable hv hn]
  · have hc := builtCode hk hb
    refine ⟨fun w => ?_, fun w p hp => hc.extractInfo_set hp w _, fun w hw => ?_⟩
    · rw [hc.extractInfo_eq, List.length_map, List.length_range]
    · have := hc.uint_syndrome_lt w
      omega

/-- Settles O44: the zero word and the codewords have the zero syndrome; a word of two ones reaches N + 1
where that has M bits. -/
theorem syndromeWritesSynOnly : Obligations.SyndromeWritesSynOnly := by
  refine ⟨fun _ => decode_encodeWord (i := .syndrome _) rfl, fun _ _ _ hr =>
    ⟨exec_syndrome_of_length hr, exec_syndrome_lengthMismatch hr⟩, fun k c hk hb => ?_⟩
  have hc := builtCode hk hb
  refine ⟨⟨?_, fun w => hc.syndrome_codeword⟩, hc.exists_uint_syndrome_gt⟩
  rw [vecMul_zeroVec, hc.cols_transpose_h]

/-- Settles O47: a unit vector picks its column of H. -/
theorem gf2mulHtMultiplies : Obligations.Gf2mulHtMultiplies :=
  ⟨fun _ => decode_encodeWord (i := .gf2mulHT _) rfl,
    fun _ _ _ hr => ⟨exec_gf2mulHT_of_length hr, exec_gf2mulHT_lengthMismatch hr⟩,
    fun _ _ hk hb _ hj => ⟨(builtCode hk hb).syndrome_unitVec hj, (builtCode hk hb).col_h hj⟩⟩

/-- The rows of `G x2 H^T` one after the other are zeros (R116). -/
theorem BuiltCode.flatten_matMul {k : Nat} (h : BuiltCode k c) :
    (matMul c.g c.h.transpose).bits.flatten = zeroVec (k * c.m) := by
  rw [h.orthogonal, zeroVec, List.flatten_replicate_replicate, zeroVec]

/-- Settles O48: the instance of a state that meets the invariant is built for an admitted k, for which a
conforming LMAX admits `k * m`. -/
theorem gf2mulGhtMultiplies : Obligations.Gf2mulGhtMultiplies := by
  refine ⟨fun _ => decode_encodeWord (i := .gf2mulGHT) trivial, fun _ _ hr =>
    ⟨exec_gf2mulGHT_of_fits hr, exec_gf2mulGHT_range hr⟩,
    fun k c hk hb => (builtCode hk hb).flatten_matMul, fun s c hi hconf hr => ?_⟩
  obtain ⟨k, c', hk, hadm, hb, hcode⟩ := hi.built hr.isValid
  cases hr.holds.symm.trans hcode
  have hc := builtCode hk hb
  have hfits : s.config.lmax.admits (c.k * c.m) = true := by
    rw [hc.k_eq, hc.m_eq]
    exact (hconf.lmax k hk hadm).2
  rw [exec_gf2mulGHT_of_fits hr hfits, hc.flatten_matMul, hc.k_eq]
  rfl

/-- Settles O49: the syndrome's bits are those of the XOR, by `vecMul_parity_eq_vec`. -/
theorem syndromeIsXorOfPositions : Obligations.SyndromeIsXorOfPositions := fun _ _ _ hk hb hw =>
  (builtCode hk hb).uint_syndrome hw

/-- Settles O50: the product with `H^T` is linear, and it is zero on the codewords. -/
theorem syndromeIsLinear : Obligations.SyndromeIsLinear := fun _ c hk hb =>
  ⟨fun _ => (builtCode hk hb).syndrome_codeword,
    fun _ _ hw he => vecMul_gfAdd (hw.trans he.symm) c.h.transpose,
    fun _ _ => (builtCode hk hb).syndrome_codeword_gfAdd⟩

/-- Settles O55: G's columns in closed form, and the mask's ones in order. -/
theorem codewordLayout : Obligations.CodewordLayout := by
  intro k c s hk hb hs
  have hc := builtCode hk hb
  refine ⟨fun r hr => ?_, fun i => hc.getD_codeword_parity hs, ?_⟩
  · rw [hc.infoNumber_eq hr, Nat.add_sub_cancel, hc.getD_codeword_info hs hr]
  · rw [hc.mask_ones, hc.infoPositions_eq]
    refine List.map_congr_left fun r hr => ?_
    rw [hc.infoNumber_eq (List.mem_range.1 hr), Nat.add_sub_cancel]

/-! ### Decoding a codeword with errors -/

/-- Settles O51: the codeword has the zero syndrome, and the extraction gives its source digits. -/
theorem decodeOfEncode : Obligations.DecodeOfEncode := by
  intro s k c word hk hb hr hword
  have hc := builtCode hk hb
  have hsyn := hc.syndrome_codeword hword
  rw [exec_decode_of_le hr (hc.length_codeword word) hsyn (by simp), decoded_clean (uint_zeroVec _),
    uint_zeroVec, correctedWord_zero, hc.extractInfo_codeword hword]

/-- Settles O52: the syndrome of `e_p` is `vec_M(p + 1)`, and adding `e_p` again restores the codeword. -/
theorem singleErrorCorrected : Obligations.SingleErrorCorrected := by
  intro s k c word p hk hb hr hword hp
  have hc := builtCode hk hb
  have hlen : (vecMul word c.g).length = (unitVec c.n p).length := by simp [hc.length_codeword]
  have hsyn : vecMul (gfAdd (vecMul word c.g) (unitVec c.n p)) c.h.transpose = vec c.m (p + 1) := by
    rw [hc.syndrome_codeword_gfAdd hword (by simp), hc.syndrome_unitVec hp]
  have hval : uint (vec c.m (p + 1)) = p + 1 := uint_vec (hc.succ_lt_two_pow hp)
  have hrestored : correctedWord c (gfAdd (vecMul word c.g) (unitVec c.n p)) (p + 1) =
      vecMul word c.g := by
    rw [correctedWord_of_pos (by omega), Nat.add_sub_cancel, gfAdd_gfAdd_cancel hlen]
  rw [exec_decode_of_le hr (by simp [hc.length_codeword]) hsyn (by omega),
    decoded_corrected hval (by omega) hp, hval, hrestored, hc.extractInfo_codeword hword]

/-- A value of m bits that is uncorrectable lies above n, and so n is not the greatest such value (R122). -/
theorem range_of_uncorrectable {m n v : Nat} (hv : v < 2 ^ m) (hout : outcomeOf v n = 2) :
    n ≠ 2 ^ m - 1 ∧ n < v ∧ v ≤ 2 ^ m - 1 := by
  have := lt_of_outcomeOf_eq_two hout
  omega

/-- Settles O54: DECODE and LOCATE write the OUTCOME of a value of M bits. -/
theorem uncorrectableOnlyAboveN : Obligations.UncorrectableOnlyAboveN := by
  intro s t k c da hk hb hr
  have hc := builtCode hk hb
  refine ⟨?_, fun hda hex hout => ?_, fun hda hex hout => ?_⟩
  · have := hc.n_eq
    have := hc.k_eq
    have := hc.pos
    omega
  · obtain ⟨d, hd⟩ := exec_decode_of_length hr hda rfl
    cases hd.symm.trans hex
    obtain ⟨hn, hv⟩ := range_of_uncorrectable (hc.uint_syndrome_lt da) (Reg.val.inj hout)
    exact ⟨hn, _, rfl, hv⟩
  · obtain ⟨hval, hflag⟩ := exec_locate_flags hr hda hex
    obtain ⟨hn, hv⟩ := range_of_uncorrectable (hda ▸ uint_lt da) (Reg.val.inj (hflag.symm.trans hout))
    exact ⟨hn, _, hval, hv⟩

/-- The XOR of two different 1-indexed positions is neither 0 nor one of them (R121). -/
theorem xor_succ_ne {p q : Nat} (hpq : p < q) : (p + 1) ^^^ (q + 1) ≠ 0 ∧
    (p + 1) ^^^ (q + 1) ≠ p + 1 ∧ (p + 1) ^^^ (q + 1) ≠ q + 1 := by
  rw [ne_eq, ne_eq, ne_eq, Nat.xor_eq_zero_iff, xor_left_eq_self_iff, xor_right_eq_self_iff]
  omega

/-- Two errors in a codeword (R121). -/
theorem BuiltCode.syndrome_two_errors {k p q : Nat} (h : BuiltCode k c) {w : BitVector}
    (hw : w.length = k) (hp : p < c.n) (hq : q < c.n) :
    vecMul (gfAdd (gfAdd (vecMul w c.g) (unitVec c.n p)) (unitVec c.n q)) c.h.transpose =
      vec c.m ((p + 1) ^^^ (q + 1)) := by
  rw [gfAdd_assoc, h.syndrome_codeword_gfAdd hw (by simp), h.syndrome_two_unitVec hp hq]

/-- A double error miscorrected at a third position leaves three wrong bits (R121). -/
theorem popcount_miscorrected {n p q r : Nat} {w : BitVector} (hw : w.length = n) (hp : p < n)
    (hq : q < n) (hr : r < n) (hqp : q ≠ p) (hrp : r ≠ p) (hrq : r ≠ q) :
    popcount (gfAdd (gfAdd (gfAdd (gfAdd w (unitVec n p)) (unitVec n q)) (unitVec n r)) w) = 3 := by
  rw [← popcount_three_unitVec hp hq hr hqp hrp hrq, gfAdd_assoc w, gfAdd_assoc w, gfAdd_comm w,
    gfAdd_gfAdd_cancel (by simp [hw])]

/-- The errors at 0, 1 and 2 cancel in the syndrome, since `1 XOR 2 XOR 3 = 0` (R121). -/
theorem BuiltCode.syndrome_three_errors {k : Nat} (h : BuiltCode k c) {w : BitVector}
    (hw : w.length = k) :
    vecMul (gfAdd (gfAdd (gfAdd (vecMul w c.g) (unitVec c.n 0)) (unitVec c.n 1)) (unitVec c.n 2))
      c.h.transpose = zeroVec c.m := by
  have hn := h.three_le_n
  rw [gfAdd_assoc (vecMul w c.g), gfAdd_assoc (vecMul w c.g), h.syndrome_codeword_gfAdd hw (by simp),
    vecMul_gfAdd (by simp), h.syndrome_two_unitVec (by omega) (by omega), h.syndrome_unitVec (by omega),
    gfAdd_vec]
  exact vec_zero c.m

/-- The first information position is 2, so an error there is in the first source digit (R121). -/
theorem BuiltCode.extractInfo_three_errors_ne {k : Nat} (h : BuiltCode k c) {w : BitVector}
    (hw : w.length = k) :
    extractInfo c (gfAdd (gfAdd (gfAdd (vecMul w c.g) (unitVec c.n 0)) (unitVec c.n 1))
      (unitVec c.n 2)) ≠ w := by
  have hn := h.three_le_n
  have hfirst : 2 = infoPosition c.n 0 :=
    (eq_infoPosition_iff (mem_infoPositions.2 ⟨by omega, by decide⟩) (h.lt_length_info h.pos)).2
      (by decide)
  have hdigit := h.getD_codeword_info hw h.pos
  intro heq
  have hget := congrArg (fun v : BitVector => v.getD 0 false) heq
  simp only [h.extractInfo_eq, getD_map_range _ h.pos, ← hfirst] at hget
  rw [← hfirst] at hdigit
  rw [getD_gfAdd (by simp [h.length_codeword]), getD_gfAdd (by simp [h.length_codeword]),
    getD_gfAdd (by simp [h.length_codeword]), getD_unitVec (by omega), getD_unitVec (by omega),
    getD_unitVec (by omega), hdigit] at hget
  exact absurd hget (by simp)

/-- Settles O53: the codeword drops out of the syndrome; `xor_succ_ne` places a double error's miscorrection
at a third position, and three errors that cancel change the first source digit. -/
theorem multiBitErrors : Obligations.MultiBitErrors := by
  intro s k c word hk hb hr hword
  have hc := builtCode hk hb
  have hlen := hc.length_codeword word
  refine ⟨fun e he _ => ?_, fun p q v hpq hq hv => ?_, ?_⟩
  · rw [hc.syndrome_codeword_gfAdd hword he, hc.uint_syndrome he]
  · have hp : p < c.n := by omega
    have hsyn := hc.syndrome_two_errors hword hp hq
    obtain ⟨hne, hnep, hneq⟩ := xor_succ_ne hpq
    rw [← hv] at hsyn hne hnep hneq
    have hval : uint (vec c.m v) = v :=
      uint_vec (hv ▸ Nat.xor_lt_two_pow (hc.succ_lt_two_pow hp) (hc.succ_lt_two_pow hq))
    obtain ⟨d, hd⟩ := exec_decode_of_length hr (by simp [hlen]) hsyn
    refine ⟨_, hd, rfl, congrArg Reg.val hval, hne, fun hn => ?_,
      fun hn => ⟨?_, by omega, by omega, ?_⟩⟩
    · rw [decoded_uncorrectable hval hn]
    · rw [decoded_corrected hval (by omega) hn]
    · rw [correctedWord_of_pos (by omega),
        popcount_miscorrected hlen hp hq (by omega) (by omega) (by omega) (by omega)]
  · have hsyn := hc.syndrome_three_errors hword
    have hex := exec_decode_of_le hr (by simp [hlen]) hsyn (by simp)
    rw [decoded_clean (uint_zeroVec _), uint_zeroVec, correctedWord_zero] at hex
    exact ⟨_, _, hex, rfl, rfl, hc.extractInfo_three_errors_ne hword⟩

end Sys2Proof.Machine
end

section
/-! SUPPORT. Proofs about the inspect accessors (43_inspect.md R130 to R134): what an indexed read does on
an instance the block holds, then the rows and columns of a built instance. -/

namespace Sys2Proof

/-! ### The ones of a vector (R9) -/

/-- Different positions that hold a 1 are so many ones (R9). -/
theorem length_le_popcount {v : BitVector} {is : List Nat} (hnodup : is.Nodup)
    (h : ∀ i ∈ is, v.getD i false = true) : is.length ≤ popcount v := by
  rw [popcount_eq_length_filter]
  refine (List.subperm_of_subset hnodup fun i hi => ?_).length_le
  have hone := h i hi
  have hlt : i < v.length := by
    by_contra hge
    simp [List.getD_eq_getElem?_getD, List.getElem?_eq_none (Nat.not_lt.1 hge)] at hone
  exact List.mem_filter.2 ⟨List.mem_range.2 hlt, hone⟩

/-- A positive number that is no power of two has two bits set: it differs from the power of its first one
in another bit (R9). -/
theorem exists_two_bits {x : Nat} (hx : x ≠ 0) (hp : pow2 x = false) :
    ∃ a b, a ≠ b ∧ x.testBit a = true ∧ x.testBit b = true := by
  obtain ⟨a, ha⟩ := Nat.exists_testBit_of_ne_zero hx
  have hne : x ≠ 2 ^ a := by
    rintro rfl
    rw [pow2_two_pow] at hp
    cases hp
  obtain ⟨b, hb⟩ := Nat.exists_testBit_ne_of_ne hne
  have hab : a ≠ b := by
    rintro rfl
    rw [ha, Nat.testBit_two_pow_self] at hb
    exact hb rfl
  rw [Nat.testBit_two_pow_of_ne hab, ne_eq, Bool.not_eq_false] at hb
  exact ⟨a, b, hab, ha, hb⟩

namespace Machine

variable {s : State} {c : CodeInstance}

/-! ### An indexed read (R130 to R133) -/

/-- The shape of HCOL, GCOL, GROW and HROW: below its bound the read completes with the vector in DOUT, and
from the bound on it raises Range. -/
theorem withCode_indexedRead (hr : s.Ready c) (bound : CodeInstance → Nat) (i : Nat)
    (read : CodeInstance → BitVector) :
    let result := withCode s fun c =>
      if bound c ≤ i then .next (raise .range s) else .next (complete (writeDout (read c) s))
    (i < bound c → result = .next { s with dout := .val (read c), status := 0 }) ∧
      (bound c ≤ i → result = .next { s with status := 5 }) := by
  refine ⟨fun h => ?_, fun h => ?_⟩
  · exact (withCode_of_ready hr _).trans (if_neg (Nat.not_le.2 h))
  · exact (withCode_of_ready hr _).trans (if_pos h)

/-! ### The rows and columns of a built instance -/

namespace BuiltCode

section
variable {k : Nat} (h : BuiltCode k c)
include h

/-- Row i of H holds bit m-1-i of every column's number (R133). -/
theorem row_h {i : Nat} (hi : i < c.m) :
    c.h.row i = (List.range c.n).map fun j => (j + 1).testBit (c.m - 1 - i) := by
  rw [h.h_eq, parity, row_ofFn _ hi]
  exact List.map_congr_left fun j _ => getD_vec_testBit hi (j + 1)

theorem standardGenerator_eq :
    standardGenerator (systemize c.h).2 k = .ofFn k c.n (standardBit c.m c.n) := by
  have hgen := standardGenerator_parity h.powers
  rwa [h.length_info, ← h.h_eq] at hgen

/-- Column j of G is the column of `G_std` at the place of column j of H in S (R97). -/
theorem col_g {j : Nat} (hj : j < c.n) :
    c.g.col j = (standardGenerator (systemize c.h).2 k).col (colPlace c.m j) := by
  rw [h.standardGenerator_eq, h.g_eq, BitMatrix.col_ofFn _ hj,
    BitMatrix.col_ofFn _ (colPlace_lt h.powers hj)]

/-- The r-th information column of G is `e_r`: its place is column r of the identity block (R131). -/
theorem col_g_info {r : Nat} (hr : r < k) : c.g.col (infoPosition c.n r) = unitVec k r := by
  have hr' := h.lt_length_info hr
  have hpos := infoPosition_lt hr'
  rw [h.col_g hpos, h.standardGenerator_eq, BitMatrix.col_ofFn _ (colPlace_lt h.powers hpos),
    colPlace_infoPosition hr', unitVec]
  simp [standardBit]

theorem pow_pred_lt {i : Nat} (hi : i < c.m) : 2 ^ i - 1 < c.n := by
  have := (h.powers i).2 hi
  have := Nat.two_pow_pos i
  omega

/-- The parity column of `2^i` in G is column m-1-i of `G_std` (R131). -/
theorem col_g_parity {i : Nat} (hi : i < c.m) :
    c.g.col (2 ^ i - 1) = (standardGenerator (systemize c.h).2 k).col (c.m - 1 - i) := by
  rw [h.col_g (h.pow_pred_lt hi), colPlace_of_pow (Nat.sub_add_cancel Nat.one_le_two_pow)]

theorem getD_row_g {r j : Nat} (hr : r < k) (hj : j < c.n) :
    (c.g.row r).getD j false = standardBit c.m c.n r (colPlace c.m j) := h.entry_g hr hj

theorem length_row_g {r : Nat} (hr : r < k) : (c.g.row r).length = c.n := by
  rw [h.g_eq, row_ofFn _ hr, List.length_map, List.length_range]

/-- Row r of G has a 1 at the r-th information position (R132). -/
theorem getD_row_g_info {r : Nat} (hr : r < k) :
    (c.g.row r).getD (infoPosition c.n r) false = true := by
  have hr' := h.lt_length_info hr
  rw [h.getD_row_g hr (infoPosition_lt hr')]
  exact (standardBit_colPlace_info hr' (infoPosition_mem hr')).2 rfl

/-- Row r of G has a 1 at `2^i - 1` for every bit i of its number (R132). -/
theorem getD_row_g_parity {r i : Nat} (hr : r < k) (hbit : (infoPosition c.n r + 1).testBit i = true) :
    (c.g.row r).getD (2 ^ i - 1) false = true := by
  have hlt := infoPosition_lt (h.lt_length_info hr)
  have hi : i < c.m := (h.powers i).1 ((Nat.ge_two_pow_of_testBit hbit).trans hlt)
  rw [h.getD_row_g hr (h.pow_pred_lt hi),
    standardBit_colPlace_pow r hi (Nat.sub_add_cancel Nat.one_le_two_pow), hbit]

/-- Row r of G has a 1 at its information position and two more at parity positions, since the number of
an information position has two bits set (R132). -/
theorem three_le_popcount_row_g {r : Nat} (hr : r < k) : 3 ≤ popcount (c.g.row r) := by
  have hp := (mem_infoPositions.1 (infoPosition_mem (h.lt_length_info hr))).2
  obtain ⟨a, b, hab, ha, hb⟩ := exists_two_bits (Nat.succ_ne_zero _) hp
  have hinfo (e : Nat) : infoPosition c.n r ≠ 2 ^ e - 1 := fun heq => by
    rw [heq, Nat.sub_add_cancel Nat.one_le_two_pow, pow2_two_pow] at hp
    cases hp
  have hparity : 2 ^ a - 1 ≠ 2 ^ b - 1 := fun heq =>
    hab (Nat.pow_right_injective (Nat.le_refl 2)
      (Nat.sub_one_cancel (Nat.two_pow_pos a) (Nat.two_pow_pos b) heq))
  have hnodup : [infoPosition c.n r, 2 ^ a - 1, 2 ^ b - 1].Nodup := by
    simp [hinfo, hparity]
  exact length_le_popcount hnodup (List.forall_mem_cons.2 ⟨h.getD_row_g_info hr,
    List.forall_mem_cons.2 ⟨h.getD_row_g_parity hr ha,
      List.forall_mem_singleton.2 (h.getD_row_g_parity hr hb)⟩⟩)

end

end BuiltCode

/-! ### The statements -/

/-- Settles O56: HCOL is the indexed read of the columns of H, and H is the parity matrix. -/
theorem inspectHcolReads : Obligations.InspectHcolReads :=
  ⟨fun _ => decode_encodeWord (i := .inspectHcol _) rfl,
    fun _ _ j hr => withCode_indexedRead hr (·.n) j (·.h.col j),
    fun _ _ hk hb _ hj => (builtCode hk hb).col_h hj⟩

/-- Settles O57: GCOL is the indexed read of the columns of G, which are those of `G_std` at the places of
the columns of H. -/
theorem inspectGcolReads : Obligations.InspectGcolReads := by
  refine ⟨fun _ => decode_encodeWord (i := .inspectGcol _) rfl,
    fun _ _ j hr => withCode_indexedRead hr (·.n) j (·.g.col j), fun k c hk hb => ?_⟩
  have hc := builtCode hk hb
  refine ⟨fun r hr => ?_, fun i hi => hc.col_g_parity hi⟩
  rw [hc.infoNumber_eq hr, Nat.add_sub_cancel, hc.col_g_info hr]

/-- Settles O58: GROW is the indexed read of the rows of G; a unit word picks its row, and the row has a 1
at its information position and at the parity position of each bit of that position's number. -/
theorem inspectGrowReads : Obligations.InspectGrowReads := by
  refine ⟨fun _ => decode_encodeWord (i := .inspectGrow _) rfl,
    fun _ _ r hr => withCode_indexedRead hr (·.k) r (·.g.row r), fun k c hk hb r hr => ?_⟩
  have hc := builtCode hk hb
  have hword : c.g.row r = vecMul (unitVec k r) c.g := by rw [hc.g_eq, vecMul_unitVec _ hr]
  exact ⟨hword, hc.length_row_g hr, hc.three_le_popcount_row_g hr⟩

/-- Settles O59: HROW is the indexed read of the rows of H, and column j of H is `vec_m(j + 1)`. -/
theorem inspectHrowReads : Obligations.InspectHrowReads :=
  ⟨fun _ => decode_encodeWord (i := .inspectHrow _) rfl,
    fun _ _ i hr => withCode_indexedRead hr (·.m) i (·.h.row i),
    fun _ _ hk hb _ hi => (builtCode hk hb).row_h hi⟩

/-- Settles O60: MASK completes on every instance, and the mask's zeros are the positions whose number is a
power of two. -/
theorem inspectMaskReads : Obligations.InspectMaskReads := by
  refine ⟨fun _ => decode_encodeWord (i := .inspectMask) trivial, fun _ _ hr => withCode_of_ready hr _,
    fun k c hk hb => ?_⟩
  obtain ⟨hlen, hbit, -, hpop, -⟩ := maskMarksNonPowers k c hk hb
  refine ⟨hpop, hlen, fun j hj => ?_⟩
  have hsucc (i : Nat) : j + 1 = 2 ^ i ↔ j = 2 ^ i - 1 := by
    have := Nat.two_pow_pos i
    omega
  rw [hbit j hj, Bool.not_eq_false', pow2_iff]
  exact exists_congr hsucc

end Machine

end Sys2Proof
end

section
/-! SUPPORT. Proofs about the errors (60_exceptions.md R141 to R150): the order of the common checks, what a
raise writes, and the model fault ReadUndef, which only a host read records and nothing clears. -/

namespace Sys2Proof.Machine

variable {s t : State} {w : BitVec 16} {p : Ports}

/-! ### What a raise writes (R142, R143) -/

theorem kindCode_eq_one {e : Kind} : kindCode e = 1 ↔ e = .constructionError := by
  cases e <;> decide

/-- On a faulted block a ConstructionError leaves FAULT as it is. -/
theorem raise_constructionError_of_fault (h : s.fault = true) :
    raise .constructionError s = { s with
      status := 1, valid := false, k := .undef, m := .undef, n := .undef, h := .undef, g := .undef,
      mask := .undef } := by
  simp [writeStatus, destroyCode, h]

/-- A command that does not end with OK has raised. -/
theorem exec_eq_raise_of_status_ne {i : Instr} (h : exec i s = .next t) (hstatus : t.status ≠ 0) :
    ∃ e, t = raise e s := by
  obtain ⟨x, -, rfl, -⟩ := exec_effect h
  cases x with
  | raises e => exact ⟨e, rfl⟩
  | writes w => exact absurd rfl hstatus
  | commits c => exact absurd rfl hstatus

/-- Settles O15: a nonzero STATUS comes from a raise, and its code 1 from a ConstructionError only. -/
theorem raiseWritesStatusOnly : Obligations.RaiseWritesStatusOnly := by
  intro i s t h hstatus
  obtain ⟨e, rfl⟩ := exec_eq_raise_of_status_ne h hstatus
  rw [raise_status, Ne, kindCode_eq_one]
  constructor
  · rintro rfl
    rfl
  · intro he
    rw [raise_of_ne he]
    rfl

/-! ### The order of the checks (R141, R146, R147) -/

/-- Every command the table marks as needing the instance checks for it first. -/
theorem exec_of_noInstance {i : Instr} (hi : i.needsInstance = true) (hf : s.fault = false)
    (hv : s.valid = false) : exec i s = .next { s with status := 3 } := by
  cases i
  case construct | vadd | flip | injrand | i2v | v2i => cases hi
  all_goals exact withCode_of_noInstance hf hv _

/-- Settles O13: the twelve commands are those that need the instance. -/
theorem noInstanceRaised : Obligations.NoInstanceRaised := by
  intro s hf hv
  have hraise (i : Instr) (hi : i.needsInstance = true) : exec i s = .next { s with status := 3 } :=
    exec_of_noInstance hi hf hv
  exact ⟨fun _ => hraise _ rfl, fun _ => hraise _ rfl, fun _ => hraise _ rfl, fun _ => hraise _ rfl,
    fun _ => hraise _ rfl, fun _ => hraise _ rfl, hraise _ rfl, fun _ => hraise _ rfl,
    fun _ => hraise _ rfl, fun _ => hraise _ rfl, fun _ => hraise _ rfl, hraise _ rfl⟩

theorem hostCommand_of_illegal {why : IllegalWord} (hp : p.presentable s.config = true)
    (hd : decode w p = .illegal why) : hostCommand w p s = illegalCommand s := by
  rw [hostCommand, if_pos hp, hd]

/-- FAULT is checked before the word: legal or not, it raises ConstructionError. -/
theorem hostCommand_of_fault (hp : p.presentable s.config = true) (hf : s.fault = true) :
    hostCommand w p s = .next (raise .constructionError s) := by
  cases hd : decode w p with
  | ok i => rw [hostCommand_of_ok hp hd, exec_of_fault hf]
  | illegal why => rw [hostCommand_of_illegal hp hd, illegalCommand, checked_of_fault hf]

theorem step_of_illegal {rest : List HostAction} {why : IllegalWord}
    (hs : s.pending = .command w p :: rest) (hp : p.presentable s.config = true)
    (hf : s.fault = false) (hd : decode w p = .illegal why) :
    step s = .next { s with pending := rest, status := 4 } := by
  rw [step_command hs, hostCommand_of_illegal (s := { s with pending := rest }) hp hd, illegalCommand,
    checked_of_noFault (s := { s with pending := rest }) hf]
  rfl

/-- Settles O6: FAULT and the word are checked when the command is presented, the instance by the
instruction itself. -/
theorem checksInOrder : Obligations.ChecksInOrder := by
  intro s w p rest hs hp
  have hexec (i : Instr) (hd : decode w p = .ok i) : step s = exec i { s with pending := rest } :=
    stepRunsDecodedCommand s w p rest i hs hp hd
  refine ⟨fun hf => ?_, fun hf _ => step_of_illegal hs hp hf, fun hf i hd hi hv => ?_,
    fun _ i hd _ => hexec i hd⟩
  · rw [step_command hs, hostCommand_of_fault (s := { s with pending := rest }) hp hf,
      raise_constructionError_of_fault (s := { s with pending := rest }) hf]
  · rw [hexec i hd]
    exact exec_of_noInstance hi hf hv

/-- The decoder rejects every word outside the 18 values of R62. -/
theorem exists_illegal_of_not_mem (p : Ports) (h : w.toNat ∉ legalWords) :
    ∃ why, decode w p = .illegal why := by
  cases hd : decode w p with
  | ok i =>
    obtain ⟨rfl, -⟩ := decode_eq_ok_iff_encodeWord.mp hd
    exact absurd (encodeWord_mem_legalWords i) h
  | illegal why => exact ⟨why, rfl⟩

/-- Settles O5: a word outside the table is illegal, and the words of the table have RSV = 0. -/
theorem illegalWordRaises : Obligations.IllegalWordRaises := by
  intro s w p rest hs hp hf
  have hraise (hw : w.toNat ∉ legalWords) : step s = .next { s with pending := rest, status := 4 } := by
    obtain ⟨_, hd⟩ := exists_illegal_of_not_mem p hw
    exact step_of_illegal hs hp hf hd
  exact ⟨hraise, fun hrsv => hraise fun hw => hrsv (fields_of_mem_legalWords _ hw).1⟩

/-! ### The model fault ReadUndef (R150) -/

theorem readAs_of_undef {α : Type} {r : Reg α} (h : r = .undef) (f : α → Value) :
    readAs r f = .undef := by rw [h, readAs]

theorem step_read_of_undef {r : HostReg} {rest : List HostAction}
    (h : s.pending = .read r :: rest) (hv : hostView r s = .undef) :
    step s = .next { s with
      pending := rest, modelFaults := s.modelFaults ++ [.readUndef r] } := by
  rw [step_read h, hostRead_of_undef ((hostView_pending r s rest).trans hv)]
  rfl

theorem hostCommand_modelFaults (h : hostCommand w p s = .next t) : t.modelFaults = s.modelFaults := by
  obtain ⟨_, ⟨_, _, h⟩ | ⟨_, ⟨_, rfl⟩ | ⟨_, rfl⟩⟩⟩ := hostCommand_next h
  · exact exec_modelFaults h
  · rfl
  · rfl

/-- All a step can do to the recorded model faults: keep them, or add the ReadUndef of its read. -/
theorem step_modelFaults (h : step s = .next t) : t.modelFaults = s.modelFaults ∨
    ∃ r rest, s.pending = .read r :: rest ∧ hostView r s = .undef ∧
      t.modelFaults = s.modelFaults ++ [.readUndef r] := by
  obtain ⟨_, rfl⟩ | ⟨w, p, rest, _, h⟩ | ⟨r, rest, hr, h⟩ | ⟨rest, _, rfl⟩ := step_next h
  · exact .inl rfl
  · exact .inl (hostCommand_modelFaults (s := { s with pending := rest }) h)
  · obtain ⟨v, _, rfl⟩ | ⟨hv, rfl⟩ := hostRead_next h
    · exact .inl rfl
    · exact .inr ⟨r, rest, hr, (hostView_pending r s rest).symm.trans hv, rfl⟩
  · exact .inl rfl

theorem step_modelFaults_prefix (h : step s = .next t) : s.modelFaults <+: t.modelFaults := by
  obtain h | ⟨r, _, _, _, h⟩ := step_modelFaults h
  · rw [h]
  · exact ⟨[.readUndef r], h.symm⟩

/-- A run clears no recorded model fault: no step does. -/
theorem run_modelFaults_prefix {n : Nat} (h : Host.Core.run core n s = .next t) :
    s.modelFaults <+: t.modelFaults := by
  induction n generalizing s with
  | zero => cases h; exact List.prefix_refl _
  | succ n ih =>
    obtain ⟨u, hstep, hrun⟩ := run_succ_next h
    exact (step_modelFaults_prefix hstep).trans (ih hrun)

/-- The fault of a first read of UNDEF is still recorded at the end of the script (R178). -/
theorem not_endsWellIn_of_read_undef {r : HostReg} {rest : List HostAction}
    (h : s.pending = .read r :: rest) (hv : hostView r s = .undef) : ¬ s.EndsWellIn t := by
  rintro ⟨hrun, -, hfaults⟩
  rw [h, List.length_cons, run_succ (step_read_of_undef h hv)] at hrun
  have hlen := (run_modelFaults_prefix hrun).length_le
  simp [hfaults] at hlen

/-- Settles O9: a read step of UNDEF appends its ReadUndef, and no step removes or otherwise adds one. -/
theorem readOfUndefFaults : Obligations.ReadOfUndefFaults := by
  refine ⟨fun s rest => ?_, fun s t h => ?_, fun _ _ _ => run_modelFaults_prefix,
    fun _ _ _ _ => not_endsWellIn_of_read_undef⟩
  · exact ⟨fun h hr => step_read_of_undef h (readAs_of_undef hr _),
      fun h hr => step_read_of_undef h (readAs_of_undef hr _),
      fun h hr => step_read_of_undef h (readAs_of_undef hr _),
      fun h hr => step_read_of_undef h (readAs_of_undef hr _),
      fun h hr => step_read_of_undef h (readAs_of_undef hr _),
      fun h hr => step_read_of_undef h (readAs_of_undef hr _),
      fun h hr => step_read_of_undef h (readAs_of_undef hr _),
      fun h hr => step_read_of_undef h (readAs_of_undef hr _),
      fun h hr => step_read_of_undef h (readAs_of_undef hr _),
      fun h hr => step_read_of_undef h (readAs_of_undef hr _)⟩
  · exact (step_modelFaults h).imp id fun ⟨r, rest, hr, hv, _⟩ => ⟨r, rest, hr, hv⟩

end Sys2Proof.Machine
end

section
/-! SUPPORT. Proofs about reset and about runs (70_reset_and_hazards.md R170, R171, R176, R178): what reset
leaves, what it alone can clear, that every command completes, and that a dutiful script ends well. -/

namespace Sys2Proof.Machine

variable {s t : State}

/-! ### Reset (R170) -/

/-- Settles O8: the step of a reset takes it off the script and gives every register its reset value. -/
theorem resetLeavesTheResetState : Obligations.ResetLeavesTheResetState :=
  ⟨⟨rfl, rfl, rfl, rfl, rfl, rfl, rfl, rfl, rfl, rfl, rfl, rfl, rfl, rfl, rfl, rfl⟩,
    fun _ _ => step_reset⟩

/-- Settles O19: the reset state is what a reset makes of itself. -/
theorem resetMeetsInvariant : Obligations.ResetMeetsInvariant :=
  ⟨inv_hostReset State.reset, fun c => inv_hostReset (State.resetWith c)⟩

/-- Reset is complete: it reads no register (R171). -/
theorem hostReset_eq {s' : State} (hc : s'.config = s.config) (hp : s'.pending = s.pending)
    (ho : s'.observed = s.observed) (hm : s'.modelFaults = s.modelFaults) :
    hostReset s' = hostReset s := by
  simp only [hostReset, hc, hp, ho, hm]

/-! ### FAULT and VALID over one step (R171) -/

theorem hostRead_fault {r : HostReg} (h : hostRead r s = .next t) : t.fault = s.fault := by
  obtain ⟨v, _, rfl⟩ | ⟨_, rfl⟩ := hostRead_next h <;> rfl

theorem hostCommand_keeps_fault {w : BitVec 16} {p : Ports} (h : hostCommand w p s = .next t)
    (hf : s.fault = true) : t.fault = true := by
  rw [hostCommand_of_fault (hostCommand_next h).1 hf] at h
  cases h
  rfl

/-- The only raise that clears VALID is the ConstructionError (R142, R143). -/
theorem raise_clears_valid {e : Kind} (hv : s.valid = true) (ht : (raise e s).valid = false) :
    (raise e s).fault = true ∧ (raise e s).status = 1 := by
  by_cases he : e = .constructionError
  · subst he
    exact ⟨rfl, rfl⟩
  · rw [raise_of_ne he] at ht
    cases hv.symm.trans ht

theorem exec_clears_valid {i : Instr} (h : exec i s = .next t) (hv : s.valid = true)
    (ht : t.valid = false) : t.fault = true ∧ t.status = 1 := by
  obtain ⟨x, -, rfl, -⟩ := exec_effect h
  cases x with
  | raises e => exact raise_clears_valid hv ht
  | writes w => cases hv.symm.trans ht
  | commits c => cases ht

theorem hostCommand_clears_valid {w : BitVec 16} {p : Ports} (h : hostCommand w p s = .next t)
    (hv : s.valid = true) (ht : t.valid = false) : t.fault = true ∧ t.status = 1 := by
  obtain ⟨_, ⟨i, _, h⟩ | ⟨_, ⟨_, rfl⟩ | ⟨_, rfl⟩⟩⟩ := hostCommand_next h
  · exact exec_clears_valid h hv ht
  · exact raise_clears_valid hv ht
  · exact raise_clears_valid hv ht

theorem step_keeps_fault (h : step s = .next t) (hf : s.fault = true)
    (hreset : ∀ rest, s.pending ≠ .reset :: rest) : t.fault = true := by
  obtain ⟨_, rfl⟩ | ⟨w, p, rest, _, h⟩ | ⟨r, rest, _, h⟩ | ⟨rest, hp, _⟩ := step_next h
  · exact hf
  · exact hostCommand_keeps_fault h hf
  · exact (hostRead_fault h).trans hf
  · exact absurd hp (hreset rest)

theorem step_clears_valid (h : step s = .next t) (hv : s.valid = true) (ht : t.valid = false) :
    (∃ rest, s.pending = .reset :: rest) ∨ (t.fault = true ∧ t.status = 1) := by
  obtain ⟨_, rfl⟩ | ⟨w, p, rest, _, h⟩ | ⟨r, rest, _, h⟩ | ⟨rest, hp, _⟩ := step_next h
  · cases hv.symm.trans ht
  · exact .inr (hostCommand_clears_valid h hv ht)
  · have hkept : t.valid = s.valid := (sameInstance_hostRead h).valid
    cases (hkept.trans hv).symm.trans ht
  · exact .inl ⟨rest, hp⟩

/-- Settles O14: a step of any other kind keeps FAULT, and VALID unless it raises ConstructionError. -/
theorem onlyResetClearsFault : Obligations.OnlyResetClearsFault := by
  refine ⟨fun s t h hf ht => ?_, fun _ _ => step_clears_valid, fun s s' rest hs hp hc ho hm => ?_⟩
  · by_contra hreset
    cases (step_keeps_fault h hf (not_exists.1 hreset)).symm.trans ht
  · rw [step_reset hs, step_reset (hp.trans hs)]
    exact congrArg _ (hostReset_eq hc rfl ho hm)

/-! ### Every command completes (R176) -/

/-- The meaning answers a next state, not a fault or a refusal. -/
def Completes (r : Result) : Prop := ∃ t, r = .next t

theorem completes_next (t : State) : Completes (.next t) := ⟨t, rfl⟩

theorem Completes.ite {p : Prop} [Decidable p] {a b : Result} (ha : Completes a) (hb : Completes b) :
    Completes (if p then a else b) := by
  split
  · exact ha
  · exact hb

theorem completes_checked {body : Result} (h : s.fault = false → Completes body) :
    Completes (checked s body) := by
  cases hf : s.fault with
  | true => rw [checked_of_fault hf]; exact completes_next _
  | false => rw [checked_of_noFault hf]; exact h hf

/-- With the invariant, VALID = 1 gives the body an instance to run on. -/
theorem completes_withCode (hi : s.Inv) {body : CodeInstance → Result}
    (h : ∀ c, Completes (body c)) : Completes (withCode s body) := by
  cases hf : s.fault with
  | true => rw [withCode_of_fault hf]; exact completes_next _
  | false =>
    cases hv : s.valid with
    | false => rw [withCode_of_noInstance hf hv]; exact completes_next _
    | true =>
      obtain ⟨_, c, _, _, _, hr⟩ := hi.ready hf hv
      rw [withCode_of_ready hr]
      exact h c

/-- Both ends of a command: a raise under a condition, else a completed command. -/
theorem completes_ite_next {p : Prop} [Decidable p] {u v : State} :
    Completes (if p then .next u else .next v) :=
  (completes_next u).ite (completes_next v)

theorem completes_construct (k : Nat) (s : State) : Completes (exec (.construct k) s) :=
  completes_checked fun _ => (completes_next _).ite <| (completes_next _).ite <| by
    cases buildCode k with
    | none => exact completes_next _
    | some c => exact completes_next _

/-- INJRAND is refused only for a draw outside the set, which the host does not present (R161). -/
theorem completes_injrand {da e : BitVector} {n : Nat} {c : Config}
    (hw : (Instr.injrand da n e).wellFormed c = true) (s : State) :
    Completes (exec (.injrand da n e) s) := by
  refine completes_checked fun hf => ?_
  simp only [Instr.wellFormed, Bool.and_eq_true, Bool.or_eq_true, decide_eq_true_eq] at hw
  obtain ⟨_, hlt | hdraw⟩ := hw
  · rw [if_pos hlt]; exact completes_next _
  · rw [if_pos hdraw]; exact completes_ite_next

/-- An instruction the host can present answers a next state wherever the invariant holds (R176). -/
theorem exec_completes (hi : s.Inv) {i : Instr} (hw : i.wellFormed s.config = true) :
    Completes (exec i s) := by
  cases i with
  | construct k => exact completes_construct k s
  | encode da => exact completes_withCode hi fun _ => completes_ite_next
  | decode da => exact completes_withCode hi fun _ => (completes_next _).ite completes_ite_next
  | syndrome da => exact completes_withCode hi fun _ => completes_ite_next
  | locate da => exact completes_withCode hi fun _ => (completes_next _).ite completes_ite_next
  | gf2mulG da => exact completes_withCode hi fun _ => completes_ite_next
  | gf2mulHT da => exact completes_withCode hi fun _ => completes_ite_next
  | gf2mulGHT => exact completes_withCode hi fun _ => completes_ite_next
  | vadd da db => exact completes_checked fun _ => completes_ite_next
  | flip da p => exact completes_checked fun _ => completes_ite_next
  | injrand da n e => exact completes_injrand hw s
  | i2v x w => exact completes_checked fun _ => completes_ite_next
  | v2i da => exact completes_checked fun _ => completes_next _
  | inspectHcol j => exact completes_withCode hi fun _ => completes_ite_next
  | inspectGcol j => exact completes_withCode hi fun _ => completes_ite_next
  | inspectGrow r => exact completes_withCode hi fun _ => completes_ite_next
  | inspectHrow j => exact completes_withCode hi fun _ => completes_ite_next
  | inspectMask => exact completes_withCode hi fun _ => completes_next _

/-- k has `floor(log2 k) + 1` bits, and one more is enough for the search of R91 (R176). -/
theorem deriveM_le_log2 {k : Nat} (hk : 1 ≤ k) : deriveM k ≤ Nat.log2 k + 2 := by
  by_contra hlt
  have hsearch : 2 ^ (k.log2 + 2) - (k.log2 + 2) - 1 < k := lt_of_lt_deriveM (by omega) (by omega)
  have hbits : k < 2 ^ (k.log2 + 1) := Nat.lt_log2_self
  have hself : k.log2 + 1 < 2 ^ (k.log2 + 1) := Nat.lt_two_pow_self
  have hdouble : 2 ^ (k.log2 + 2) = 2 * 2 ^ (k.log2 + 1) := Nat.pow_succ'
  omega

/-- Settles O21: the checks answer without fault under the invariant, each instruction's own cases answer a
next state, and the search of R91 stops at the bound. -/
theorem everyCommandCompletes : Obligations.EveryCommandCompletes :=
  ⟨fun _ _ hi hw => exec_completes hi hw, fun _ => deriveM_le_log2⟩

/-! ### A dutiful run ends well (R161, R178) -/

/-- The two states agree on the parameters, the host's script and the recorded model faults, which a
dutiful action leaves alone once it is off the script. -/
structure SameHost (s t : State) : Prop where
  config : t.config = s.config
  pending : t.pending = s.pending
  modelFaults : t.modelFaults = s.modelFaults

theorem sameHost_raise (e : Kind) (s : State) : SameHost s (raise e s) := by
  obtain ⟨hc, hp, _, hm⟩ := raise_host e (s := s)
  exact ⟨hc, hp, hm⟩

theorem sameHost_hostCommand {w : BitVec 16} {p : Ports} (h : hostCommand w p s = .next t) :
    SameHost s t := by
  obtain ⟨_, ⟨i, _, h⟩ | ⟨_, ⟨_, rfl⟩ | ⟨_, rfl⟩⟩⟩ := hostCommand_next h
  · obtain ⟨x, -, rfl, -⟩ := exec_effect h
    obtain ⟨hc, hp, _, hm⟩ := x.run_host s
    exact ⟨hc, hp, hm⟩
  · exact sameHost_raise _ s
  · exact sameHost_raise _ s

/-- A presentable command completes, its word legal or not. -/
theorem hostCommand_completes (hi : s.Inv) {w : BitVec 16} {p : Ports}
    (h : (HostAction.command w p).dutiful s.config = true) : Completes (hostCommand w p s) := by
  simp only [HostAction.dutiful, Bool.and_eq_true] at h
  obtain ⟨hp, hw⟩ := h
  cases hd : decode w p with
  | ok i =>
    rw [hd] at hw
    rw [hostCommand_of_ok hp hd]
    exact exec_completes hi hw
  | illegal why =>
    rw [hostCommand_of_illegal hp hd]
    exact completes_checked fun _ => completes_next _

/-- VALID, FAULT and STATUS never hold UNDEF (R170). -/
theorem exists_hostView_of_dutiful {r : HostReg} {c : Config}
    (h : (HostAction.read r).dutiful c = true) (s : State) : ∃ v, hostView r s = .val v := by
  cases r
  case valid | fault | status => exact ⟨_, rfl⟩
  all_goals cases h

/-- The step of a dutiful action takes it off the script and leaves the parameters and the model faults. -/
theorem exists_step_of_dutiful (hi : s.Inv) {a : HostAction} {rest : List HostAction}
    (hs : s.pending = a :: rest) (ha : a.dutiful s.config = true) :
    ∃ t, step s = .next t ∧ SameHost { s with pending := rest } t := by
  cases a with
  | command w p =>
    rw [step_command hs]
    obtain ⟨t, ht⟩ := hostCommand_completes (inv_pending hi rest) ha
    exact ⟨t, ht, sameHost_hostCommand ht⟩
  | read r =>
    obtain ⟨v, hv⟩ := exists_hostView_of_dutiful ha s
    exact ⟨_, step_read_of_val hs hv, ⟨rfl, rfl, rfl⟩⟩
  | reset => exact ⟨_, step_reset hs, ⟨rfl, rfl, rfl⟩⟩

/-- A run that ends well after a step that records no model fault ends well from before it. -/
theorem endsWellIn_of_step {a : HostAction} {rest : List HostAction} {u : State}
    (hs : s.pending = a :: rest) (hstep : step s = .next t)
    (ht : SameHost { s with pending := rest } t) (hu : t.EndsWellIn u) : s.EndsWellIn u := by
  obtain ⟨hrun, hend, hfaults⟩ := hu
  refine ⟨?_, hend, hfaults.trans ht.modelFaults⟩
  rw [hs, List.length_cons, run_succ hstep, ← hrun, ht.pending]

/-- Settles O22, by induction on the script: every dutiful action has its step, which keeps the invariant
and the parameters that the rest of the script is dutiful for. -/
theorem dutifulRunEndsWell : Obligations.DutifulRunEndsWell := by
  intro s hi ha
  generalize hs : s.pending = script at ha
  induction script generalizing s with
  | nil => exact ⟨s, ⟨by rw [hs]; rfl, hs, rfl⟩, hi⟩
  | cons a rest ih =>
    rw [List.forall_mem_cons] at ha
    obtain ⟨hfirst, hrest⟩ := ha
    obtain ⟨t, hstep, ht⟩ := exists_step_of_dutiful hi hs hfirst
    obtain ⟨u, hu, hui⟩ :=
      ih t (stepKeepsInvariant s t hi hstep) ht.pending (by rw [ht.config]; exact hrest)
    exact ⟨u, endsWellIn_of_step hs hstep ht hu, hui⟩

end Sys2Proof.Machine
end
